-- ==== Sys2Proof/Word.lean ====
section
/-!
DEFINITION. The word types of the CHIP-8 core and its plainest arithmetic (spec/00_scope.md R8, R10): everything is unsigned.
-/

namespace Sys2Proof

/-- A memory cell, a general register or a timer: 8 bits (R20, R31). -/
abbrev Byte := BitVec 8

/-- An instruction word, I, PC, IR or a stack entry: 16 bits (R24, R25, R26, R70). -/
abbrev Word := BitVec 16

/-- The NNN field: a 12-bit address (R71). -/
abbrev Addr12 := BitVec 12

/-- A 4-bit field of a word, as bits (R71). -/
abbrev Nibble := BitVec 4

/-- A general-register index, a keypad index or a stack-entry index: 0 to 15 (R11, R71). -/
abbrev Ix16 := Fin 16

/-- The word whose high byte is `hi` and whose low byte is `lo` (R54). -/
abbrev wordOfBytes (hi lo : Byte) : Word := hi ++ lo

end Sys2Proof
end

