-- ==== Sys2Proof/Config.lean ====
section
/-!
DEFINITION. The parameters of the core (spec/00_scope.md R7, spec/92_eei_decisions.md) and its free values. The default of each
parameter is in Machine/Defaults.lean.
-/

namespace Sys2Proof

/-- ADDR_POLICY (R52, D1): what an address above 0xFFF does. -/
inductive AddrPolicy where
  | wrap
  | fault
  deriving DecidableEq, Repr, Inhabited

/-- DECODE_MODE (R79, D5): the document's tables with their aliases, or the standard words only. -/
inductive DecodeMode where
  | keyed
  | exact
  deriving DecidableEq, Repr, Inhabited

/-- UNMAPPED_POLICY (R80, D6): what a word with no handler does. -/
inductive UnmappedPolicy where
  | noOp
  | fault
  deriving DecidableEq, Repr, Inhabited

/-- VF_ALIAS_ORDER (R121, D8): which write to VF lands last when the destination is VF itself. -/
inductive VfAliasOrder where
  | flagLast
  | resultLast
  deriving DecidableEq, Repr, Inhabited

/-- SUBN_DEST (R131, D9): the register SUBN writes. -/
inductive SubnDest where
  | vy
  | vx
  deriving DecidableEq, Repr, Inhabited

/-- SHL_FLAG (R132, D10): the flag of SHL as the raw bit 0x80 or as 0x01. -/
inductive ShlFlag where
  | raw
  | normalized
  deriving DecidableEq, Repr, Inhabited

/-- BCD_MODE (R143, D11): LD B with the document's defect, or fixed. -/
inductive BcdMode where
  | defect
  | fixed
  deriving DecidableEq, Repr, Inhabited

/-- DRAW_EDGE (R161, D14): where a lit sprite bit past the grid goes. -/
inductive DrawEdge where
  | linear
  | fault
  deriving DecidableEq, Repr, Inhabited

/-- The parameters a core is built with (R7). FONT is an argument of `State.construct`, since it only shapes the reset
contents of memory; RAND is the free `Config.randByte`. -/
structure Config where
  addrPolicy     : AddrPolicy
  decodeMode     : DecodeMode
  unmappedPolicy : UnmappedPolicy
  vfAliasOrder   : VfAliasOrder
  subnDest       : SubnDest
  shlFlag        : ShlFlag
  bcdMode        : BcdMode
  drawEdge       : DrawEdge
  deriving DecidableEq, Repr

/-- FREE VALUE (log entry 2): the order R7 leaves OPEN. Nothing constrains it. -/
opaque Config.openVfAliasOrder : VfAliasOrder

/-- FREE VALUE (log entry 3): the byte of the n-th draw from the random source (R14, R39, D20). Nothing constrains it. -/
opaque Config.randByte : Nat → Byte

end Sys2Proof
end

