-- ==== Sys2Proof/Syntax.lean ====
section
/-!
DEFINITION. The instructions: one constructor per row of spec/opcode_table.json, with the fields of spec/30_encoding.md R81.
-/

namespace Sys2Proof

/-- One instruction of the core. `x`, `y` are register indices, `nn` an 8-bit immediate, `nnn` a 12-bit address, `n` a sprite
row count (R71). SHR and SHL carry `y`, which their rules ignore (R81). -/
inductive Instr where
  /-- CLS, 00E0 (R160). -/
  | cls
  /-- RET, 00EE (R101). -/
  | ret
  /-- JP NNN, 1NNN (R102). -/
  | jp (nnn : Addr12)
  /-- CALL NNN, 2NNN (R103). -/
  | call (nnn : Addr12)
  /-- SE Vx, NN, 3xNN (R104). -/
  | seImm (x : Ix16) (nn : Byte)
  /-- SNE Vx, NN, 4xNN (R105). -/
  | sneImm (x : Ix16) (nn : Byte)
  /-- SE Vx, Vy, 5xy0 (R106). -/
  | seReg (x y : Ix16)
  /-- LD Vx, NN, 6xNN (R122). -/
  | ldImm (x : Ix16) (nn : Byte)
  /-- ADD Vx, NN, 7xNN (R123). -/
  | addImm (x : Ix16) (nn : Byte)
  /-- LD Vx, Vy, 8xy0 (R124). -/
  | ldReg (x y : Ix16)
  /-- OR Vx, Vy, 8xy1 (R125). -/
  | orReg (x y : Ix16)
  /-- AND Vx, Vy, 8xy2 (R126). -/
  | andReg (x y : Ix16)
  /-- XOR Vx, Vy, 8xy3 (R127). -/
  | xorReg (x y : Ix16)
  /-- ADD Vx, Vy, 8xy4 (R128). -/
  | addReg (x y : Ix16)
  /-- SUB Vx, Vy, 8xy5 (R129). -/
  | sub (x y : Ix16)
  /-- SHR Vx, 8xy6 (R130). -/
  | shr (x y : Ix16)
  /-- SUBN Vx, Vy, 8xy7 (R131). -/
  | subn (x y : Ix16)
  /-- SHL Vx, 8xyE (R132). -/
  | shl (x y : Ix16)
  /-- SNE Vx, Vy, 9xy0 (R107). -/
  | sneReg (x y : Ix16)
  /-- LD I, NNN, ANNN (R140). -/
  | ldI (nnn : Addr12)
  /-- JP V0, NNN, BNNN (R108). -/
  | jpV0 (nnn : Addr12)
  /-- RND Vx, NN, CxNN (R133). -/
  | rnd (x : Ix16) (nn : Byte)
  /-- DRW Vx, Vy, N, DxyN (R161). -/
  | drw (x y n : Ix16)
  /-- SKP Vx, Ex9E (R170). -/
  | skp (x : Ix16)
  /-- SKNP Vx, ExA1 (R171). -/
  | sknp (x : Ix16)
  /-- LD Vx, DT, Fx07 (R174). -/
  | ldVxDt (x : Ix16)
  /-- LD Vx, K, Fx0A (R172). -/
  | ldVxK (x : Ix16)
  /-- LD DT, Vx, Fx15 (R175). -/
  | ldDtVx (x : Ix16)
  /-- LD ST, Vx, Fx18 (R176). -/
  | ldStVx (x : Ix16)
  /-- ADD I, Vx, Fx1E (R141). -/
  | addI (x : Ix16)
  /-- LD F, Vx, Fx29 (R142). -/
  | ldF (x : Ix16)
  /-- LD B, Vx, Fx33 (R143). -/
  | ldB (x : Ix16)
  /-- LD [I], Vx, Fx55 (R144). -/
  | ldMemVx (x : Ix16)
  /-- LD Vx, [I], Fx65 (R145). -/
  | ldVxMem (x : Ix16)
  /-- NOP: a word no other row selects (R80, R116). It carries the word (log entry 11). -/
  | nop (w : Word)
  deriving DecidableEq, Repr

end Sys2Proof
end

