-- ==== Sys2Proof/Decode.lean ====
section
/-!
DEFINITION. The decoder (spec/30_encoding.md R70 to R82) and the encoder (R83). The word values are the spec's
(log entry 10). Every 16-bit word decodes (R81); the only bytes that do not are fewer than the two of a word.
-/

namespace Sys2Proof

/-- op = w[15:12] (R71). -/
def opField (w : Word) : Nibble := w.extractLsb' 12 4

/-- w[11:8] (R71). -/
def xField (w : Word) : Nibble := w.extractLsb' 8 4

/-- w[7:4] (R71). -/
def yField (w : Word) : Nibble := w.extractLsb' 4 4

/-- N = w[3:0] (R71). -/
def nField (w : Word) : Nibble := w.extractLsb' 0 4

/-- NN = w[7:0] (R71). -/
def nnField (w : Word) : Byte := w.extractLsb' 0 8

/-- NNN = w[11:0] (R71). -/
def nnnField (w : Word) : Addr12 := w.extractLsb' 0 12

/-- Family 0 (R74): keyed on w[3:0], or only 00E0 and 00EE. -/
def decodeFamily0 (m : DecodeMode) (w : Word) : Instr :=
  match m with
  | .keyed => if nField w = 0x0#4 then .cls else if nField w = 0xE#4 then .ret else .nop w
  | .exact => if w = 0x00E0#16 then .cls else if w = 0x00EE#16 then .ret else .nop w

/-- Family 8 (R75): keyed on w[3:0] in both modes. -/
def decodeFamily8 (w : Word) (x y : Ix16) : Instr :=
  match nField w with
  | 0x0#4 => .ldReg x y
  | 0x1#4 => .orReg x y
  | 0x2#4 => .andReg x y
  | 0x3#4 => .xorReg x y
  | 0x4#4 => .addReg x y
  | 0x5#4 => .sub x y
  | 0x6#4 => .shr x y
  | 0x7#4 => .subn x y
  | 0xE#4 => .shl x y
  | _ => .nop w

/-- Family E (R76): keyed on w[3:0], or on w[7:0] under Exact. -/
def decodeFamilyE (m : DecodeMode) (w : Word) (x : Ix16) : Instr :=
  match m with
  | .keyed => if nField w = 0xE#4 then .skp x else if nField w = 0x1#4 then .sknp x else .nop w
  | .exact => if nnField w = 0x9E#8 then .skp x else if nnField w = 0xA1#8 then .sknp x else .nop w

/-- Family F (R77): keyed on w[7:0] in both modes. -/
def decodeFamilyF (w : Word) (x : Ix16) : Instr :=
  match nnField w with
  | 0x07#8 => .ldVxDt x
  | 0x0A#8 => .ldVxK x
  | 0x15#8 => .ldDtVx x
  | 0x18#8 => .ldStVx x
  | 0x1E#8 => .addI x
  | 0x29#8 => .ldF x
  | 0x33#8 => .ldB x
  | 0x55#8 => .ldMemVx x
  | 0x65#8 => .ldVxMem x
  | _ => .nop w

/-- Families 5 and 9 (R78): the low nibble is ignored under Keyed and must be 0 under Exact. -/
def decodeLowNibble0 (m : DecodeMode) (w : Word) (i : Instr) : Instr :=
  match m with
  | .keyed => i
  | .exact => if nField w = 0x0#4 then i else .nop w

/-- The complete decode of a word (R73, R81). -/
def decode (m : DecodeMode) (w : Word) : Instr :=
  let x : Ix16 := (xField w).toFin
  let y : Ix16 := (yField w).toFin
  match opField w with
  | 0x0#4 => decodeFamily0 m w
  | 0x1#4 => .jp (nnnField w)
  | 0x2#4 => .call (nnnField w)
  | 0x3#4 => .seImm x (nnField w)
  | 0x4#4 => .sneImm x (nnField w)
  | 0x5#4 => decodeLowNibble0 m w (.seReg x y)
  | 0x6#4 => .ldImm x (nnField w)
  | 0x7#4 => .addImm x (nnField w)
  | 0x8#4 => decodeFamily8 w x y
  | 0x9#4 => decodeLowNibble0 m w (.sneReg x y)
  | 0xA#4 => .ldI (nnnField w)
  | 0xB#4 => .jpV0 (nnnField w)
  | 0xC#4 => .rnd x (nnField w)
  | 0xD#4 => .drw x y (nField w).toFin
  | 0xE#4 => decodeFamilyE m w x
  | _ => decodeFamilyF w x

/-- Why bytes do not decode. -/
inductive DecodeError where
  /-- Fewer than the two bytes of an instruction word (R70). -/
  | truncated
  deriving DecidableEq, Repr

/-- Decode the first instruction of a byte stream and give the rest; the first byte is the high byte (R54, R70). -/
def decodeBytes (m : DecodeMode) : List Byte → Except DecodeError (Instr × List Byte)
  | hi :: lo :: rest => .ok (decode m (wordOfBytes hi lo), rest)
  | _ => .error .truncated

/-- A register or count field as the four bits of a word. -/
abbrev nib (k : Ix16) : Nibble := BitVec.ofFin k

/-- Format A (R71): op, NNN. -/
def fmtA (op : Nibble) (nnn : Addr12) : Word := op ++ nnn

/-- Formats XI and XK (R71): op, x, NN or an 8-bit key. -/
def fmtXI (op x : Nibble) (nn : Byte) : Word := op ++ x ++ nn

/-- Format XYN (R71): op, x, y, N or a 4-bit key. -/
def fmtXYN (op x y n : Nibble) : Word := op ++ x ++ y ++ n

/-- The canonical word of an instruction (R83); NOP's is the word it carries. -/
def encode : Instr → Word
  | .cls => 0x00E0#16
  | .ret => 0x00EE#16
  | .jp nnn => fmtA 0x1#4 nnn
  | .call nnn => fmtA 0x2#4 nnn
  | .seImm x nn => fmtXI 0x3#4 (nib x) nn
  | .sneImm x nn => fmtXI 0x4#4 (nib x) nn
  | .seReg x y => fmtXYN 0x5#4 (nib x) (nib y) 0x0#4
  | .ldImm x nn => fmtXI 0x6#4 (nib x) nn
  | .addImm x nn => fmtXI 0x7#4 (nib x) nn
  | .ldReg x y => fmtXYN 0x8#4 (nib x) (nib y) 0x0#4
  | .orReg x y => fmtXYN 0x8#4 (nib x) (nib y) 0x1#4
  | .andReg x y => fmtXYN 0x8#4 (nib x) (nib y) 0x2#4
  | .xorReg x y => fmtXYN 0x8#4 (nib x) (nib y) 0x3#4
  | .addReg x y => fmtXYN 0x8#4 (nib x) (nib y) 0x4#4
  | .sub x y => fmtXYN 0x8#4 (nib x) (nib y) 0x5#4
  | .shr x y => fmtXYN 0x8#4 (nib x) (nib y) 0x6#4
  | .subn x y => fmtXYN 0x8#4 (nib x) (nib y) 0x7#4
  | .shl x y => fmtXYN 0x8#4 (nib x) (nib y) 0xE#4
  | .sneReg x y => fmtXYN 0x9#4 (nib x) (nib y) 0x0#4
  | .ldI nnn => fmtA 0xA#4 nnn
  | .jpV0 nnn => fmtA 0xB#4 nnn
  | .rnd x nn => fmtXI 0xC#4 (nib x) nn
  | .drw x y n => fmtXYN 0xD#4 (nib x) (nib y) (nib n)
  | .skp x => fmtXI 0xE#4 (nib x) 0x9E#8
  | .sknp x => fmtXI 0xE#4 (nib x) 0xA1#8
  | .ldVxDt x => fmtXI 0xF#4 (nib x) 0x07#8
  | .ldVxK x => fmtXI 0xF#4 (nib x) 0x0A#8
  | .ldDtVx x => fmtXI 0xF#4 (nib x) 0x15#8
  | .ldStVx x => fmtXI 0xF#4 (nib x) 0x18#8
  | .addI x => fmtXI 0xF#4 (nib x) 0x1E#8
  | .ldF x => fmtXI 0xF#4 (nib x) 0x29#8
  | .ldB x => fmtXI 0xF#4 (nib x) 0x33#8
  | .ldMemVx x => fmtXI 0xF#4 (nib x) 0x55#8
  | .ldVxMem x => fmtXI 0xF#4 (nib x) 0x65#8
  | .nop w => w

/-- An instruction's two bytes, the high byte first (R54, R83). -/
def encodeBytes (i : Instr) : List Byte :=
  [(encode i).extractLsb' 8 8, (encode i).extractLsb' 0 8]

/-- The instruction of a word given as the opcode table numbers its bits: the low `nbits` bits of `w`, every bit above them 0,
laid out as two big-endian bytes and decoded under the default DECODE_MODE, Keyed (R7, R54; log entry 14). -/
def decodeTableWord (nbits w : Nat) : Option Instr :=
  let word : Word := BitVec.ofNat 16 (w % 2 ^ nbits)
  match decodeBytes .keyed [word.extractLsb' 8 8, word.extractLsb' 0 8] with
  | .ok (i, _) => some i
  | .error _ => none

end Sys2Proof
end

