-- ==== Sys2Proof/Machine/Defaults.lean ====
section
/-!
DEFINITION. The values the spec gives the parameters of spec/00_scope.md R7 by default, and the default FONT (R36).
-/

namespace Sys2Proof.Machine

/-- The defaults of R7. VF_ALIAS_ORDER has none: it is the free constant of log entry 2. -/
def defaultConfig : Config where
  addrPolicy := .wrap
  decodeMode := .keyed
  unmappedPolicy := .noOp
  vfAliasOrder := Config.openVfAliasOrder
  subnDest := .vy
  shlFlag := .raw
  bcdMode := .defect
  drawEdge := .linear

/-- FONT_BASE (R6): the address of the font table. -/
def fontBase : Nat := 0x050

/-- FONT_SIZE (R6): 16 glyphs of 5 bytes. -/
def fontSize : Nat := 80

/-- The glyphs of digits 0 to 7 (R36). -/
def fontLow : List Byte :=
  [0xF0, 0x90, 0x90, 0x90, 0xF0,
   0x20, 0x60, 0x20, 0x20, 0x70,
   0xF0, 0x10, 0xF0, 0x80, 0xF0,
   0xF0, 0x10, 0xF0, 0x10, 0xF0,
   0x90, 0x90, 0xF0, 0x10, 0x10,
   0xF0, 0x80, 0xF0, 0x10, 0xF0,
   0xF0, 0x80, 0xF0, 0x90, 0xF0,
   0xF0, 0x10, 0x20, 0x40, 0x40]

/-- The glyphs of digits 8 to F (R36). -/
def fontHigh : List Byte :=
  [0xF0, 0x90, 0xF0, 0x90, 0xF0,
   0xF0, 0x90, 0xF0, 0x10, 0xF0,
   0xF0, 0x90, 0xF0, 0x90, 0x90,
   0xE0, 0x90, 0xE0, 0x90, 0xE0,
   0xF0, 0x80, 0x80, 0x80, 0xF0,
   0xE0, 0x90, 0x90, 0x90, 0xE0,
   0xF0, 0x80, 0xF0, 0x80, 0xF0,
   0xF0, 0x80, 0xF0, 0x80, 0x80]

/-- The default FONT (R36, D25; log entry 9): glyph d at offset 5 * d, one byte a pixel row. -/
def fontTable : List Byte := fontLow ++ fontHigh

end Sys2Proof.Machine
end

