-- ==== Sys2Proof/Machine/State.lean ====
section
/-!
DEFINITION. The state of the core (spec/10_state.md R42), its fault kinds (spec/60_exceptions.md R190), the reasons a step can
stop, and the state after reset (R41). Operations on it are in Machine/Ops.lean.
-/

namespace Sys2Proof.Machine

/-- The fault kinds of R190. They are recorded in the state (R13, R192); a step that raises one is a NEXT state. -/
inductive FaultKind where
  /-- CALL with SP = 16 (R103). -/
  | stackOverflow
  /-- RET with SP = 0 (R101). -/
  | stackUnderflow
  /-- SKP or SKNP with V[x] > 15 (R173). -/
  | keyIndexOutOfRange
  /-- DRW with a lit bit past the buffer, or past the grid (R161). -/
  | drawOutOfBounds
  /-- An address above 0xFFF under ADDR_POLICY = Fault (R52). -/
  | addressOutOfRange
  /-- An unmapped word under UNMAPPED_POLICY = Fault (R80). -/
  | unmappedOpcode
  deriving DecidableEq, Repr

/-- The fault record (R40): the kind, the address the faulting word was fetched from, and the word, absent when the fetch
itself faulted. -/
structure FaultRecord where
  kind : FaultKind
  pc   : Word
  word : Option Word
  deriving DecidableEq, Repr

/-- Memory as the cells that differ from what an unlisted address reads as (`Memory.blank`, Machine/Ops.lean), addresses
rising (log entry 8). -/
abbrev Memory := List Host.Cell

/-- The display (R32, R33): row r of the 64 x 32 grid is entry r, column c its bit c (log entry 12). -/
abbrev Display := Vector (BitVec 64) 32

/-- The state of the core: the record of R42, the tone output (R37), and the model's own `draws` and `cfg`. -/
structure State where
  /-- V0 to VF (R20); V[15] is VF, the flag (R21). -/
  v : Vector Byte 16
  /-- The index register I (R24). -/
  i : Word
  /-- The program counter (R25). -/
  pc : Word
  /-- The stack pointer: the number of live entries (R27). -/
  sp : Byte
  /-- The call stack (R26). -/
  stack : Vector Word 16
  /-- The delay timer (R28). -/
  dt : Byte
  /-- The sound timer (R29). -/
  st : Byte
  /-- Memory (R31). -/
  mem : Memory
  /-- The display (R32). -/
  disp : Display
  /-- The keypad latches, true when pressed (R34). -/
  key : Vector Bool 16
  /-- The instruction register (R35). -/
  ir : Word
  /-- The fault record (R40). -/
  fault : Option FaultRecord
  /-- The start-tone output of the last Cycle (R37; log entry 6). -/
  tone : Bool
  /-- The start tones since reset (R37). -/
  toneCount : Nat
  /-- The model's own: the random bytes drawn so far (log entry 3). -/
  draws : Nat
  /-- The model's own: the parameters the core is built with (R7; log entry 1). -/
  cfg : Config
  deriving DecidableEq, Repr

/-- Why a step stops without a next state. Every fault the SPEC names is a recorded next state (`FaultKind`, R13, R192); this is the
model's own stop, where the spec gives no effect. -/
inductive Fault where
  /-- Raised by CALL and RET when SP is above 16, so that the stack has no entry for it (R27: SP takes only 0 to 16; log
  entry 5). Safe: the model stops where the spec gives no effect, and no state with SP at most 16 steps to one above. -/
  | stackEntryAbsent
  deriving DecidableEq, Repr

/-- Why an instruction has no meaning. -/
inductive Refusal where
  /-- Raised by an arm of exec whose instruction is not modelled yet; no arm does. Safe: the model stops. -/
  | notModelled (mnemonic : String)
  deriving DecidableEq, Repr

/-- The core right after reset, before a ROM is loaded (R41, R220, R221): memory lists nothing, so it reads as the font
and zeros. -/
def State.reset : State where
  v := Vector.replicate 16 0x00#8
  i := 0x0000#16
  pc := 0x0200#16
  sp := 0x00#8
  stack := Vector.replicate 16 0x0000#16
  dt := 0x00#8
  st := 0x00#8
  mem := []
  disp := Vector.replicate 32 0#64
  key := Vector.replicate 16 false
  ir := 0x0000#16
  fault := none
  tone := false
  toneCount := 0
  draws := 0
  cfg := defaultConfig

end Sys2Proof.Machine
end

