-- ==== Sys2Proof/Machine/Ops.lean ====
section
/-!
DEFINITION. The named operations over memory, registers, the stack, the display and the keypad, and the one fault entry of
spec/60_exceptions.md (R13, R190 to R193).
-/

namespace Sys2Proof.Machine

/-! ### Memory (spec/20_memory.md) -/

/-- MEM_SIZE (R6, R31). -/
def memSize : Nat := 4096

/-- What an address nothing has been stored to reads as: the reset contents of R41, the font at 0x050-0x09F and 0x00
elsewhere (log entry 8). -/
def Memory.blank (a : Nat) : Byte :=
  if fontBase ≤ a ∧ a < fontBase + fontSize then fontTable.getD (a - fontBase) 0 else 0

/-- The byte at an address (R31, R60). -/
def Memory.read (m : Memory) (a : Nat) : Byte :=
  match m with
  | [] => Memory.blank a
  | c :: rest => if c.1 = a then c.2 else Memory.read rest a

/-- The list without any cell at address `a`. -/
def Memory.erase (m : Memory) (a : Nat) : Memory := m.filter (fun c => c.1 ≠ a)

/-- A cell put before the first one of a higher address. -/
def Memory.insert (c : Host.Cell) : Memory → Memory
  | [] => [c]
  | d :: rest => if c.1 < d.1 then c :: d :: rest else d :: Memory.insert c rest

/-- Store one byte (R53, R60): the blank value removes the cell, so that equal memories are equal lists. -/
def Memory.write (m : Memory) (a : Nat) (b : Byte) : Memory :=
  if b = Memory.blank a then m.erase a else Memory.insert (a, b) (m.erase a)

/-- Store several bytes in the order of the list (R55, R60). -/
def Memory.writeAll (m : Memory) (ws : List (Nat × Byte)) : Memory :=
  ws.foldl (fun m w => m.write w.1 w.2) m

/-- The canonical form above a bound: addresses rise from `lo` on, lie in the 4096 cells, and no cell holds its blank value. -/
def Memory.wfFrom (lo : Nat) : Memory → Bool
  | [] => true
  | c :: rest => decide (lo ≤ c.1) && decide (c.1 < memSize) && (c.2 != Memory.blank c.1) && Memory.wfFrom (c.1 + 1) rest

/-- The canonical form of memory (log entry 8). -/
def Memory.wf (m : Memory) : Bool := Memory.wfFrom 0 m

/-- Address mapping of the exact integer address (R52). -/
def phys (p : AddrPolicy) (a : Nat) : Except FaultKind Nat :=
  match p with
  | .wrap => .ok (a % memSize)
  | .fault => if a < memSize then .ok a else .error .addressOutOfRange

/-- Map every address of an access, in order, before any of them is used (R64, R193). -/
def physAll (p : AddrPolicy) : List Nat → Except FaultKind (List Nat)
  | [] => .ok []
  | a :: rest =>
    match phys p a with
    | .error k => .error k
    | .ok b =>
      match physAll p rest with
      | .error k => .error k
      | .ok bs => .ok (b :: bs)

/-- The exact addresses base, base + 1, …, base + n - 1 (R55). -/
def consecutive (base n : Nat) : List Nat := (List.range n).map (fun k => base + k)

/-- Read the bytes at the given addresses, ascending in the list (R12, R55). -/
def loadBytes (p : AddrPolicy) (m : Memory) (addrs : List Nat) : Except FaultKind (List Byte) :=
  match physAll p addrs with
  | .error k => .error k
  | .ok as => .ok (as.map m.read)

/-- Write the given bytes at the given addresses, in the order of the list, or fault before the first write (R55, R193). -/
def storeBytes (p : AddrPolicy) (m : Memory) (ws : List (Nat × Byte)) : Except FaultKind Memory :=
  match physAll p (ws.map Prod.fst) with
  | .error k => .error k
  | .ok as => .ok (m.writeAll (as.zip (ws.map Prod.snd)))

/-! ### General registers (spec/10_state.md) -/

/-- The index of VF (R11, R21). -/
def vf : Ix16 := 15

/-- The sixteen indices, ascending. -/
def allIx : List Ix16 := [0, 1, 2, 3, 4, 5, 6, 7, 8, 9, 10, 11, 12, 13, 14, 15]

/-- The indices 0 to x, ascending (R144, R145). -/
def ixUpTo (x : Ix16) : List Ix16 := allIx.filter (fun k => decide (k ≤ x))

/-- One register of the file written. -/
def putReg (v : Vector Byte 16) (x : Ix16) (b : Byte) : Vector Byte 16 := v.set x.val b x.isLt

/-- Several registers written in the order of the list. -/
def putRegs (v : Vector Byte 16) (ws : List (Ix16 × Byte)) : Vector Byte 16 :=
  ws.foldl (fun v w => putReg v w.1 w.2) v

/-- V[x] (R11). -/
def State.reg (s : State) (x : Ix16) : Byte := s.v[x]

/-- V[x] <- b (R11). No register is hardwired (R20). -/
def State.setReg (s : State) (x : Ix16) (b : Byte) : State := { s with v := putReg s.v x b }

/-! ### Program counter and stack -/

/-- Skip (R15, R100): the following two bytes are passed over. -/
def State.skip (s : State) : State := { s with pc := s.pc + 2 }

/-- The stack entry an SP value names, when the stack has it (R26, R27; log entry 5). -/
def stackEntry (sp : Byte) : Option Ix16 :=
  if h : sp.toNat < 16 then some ⟨sp.toNat, h⟩ else none

/-- stack[k] <- w, and SP counts one more live entry (R27, R103). -/
def State.push (s : State) (k : Ix16) (w : Word) : State :=
  { s with stack := s.stack.set k.val w k.isLt, sp := s.sp + 1 }

/-! ### Display and keypad -/

/-- DISP_W (R6): the display's columns. -/
def dispW : Nat := 64

/-- DISP_H (R6): the display's rows. -/
def dispH : Nat := 32

/-- The number of display cells (R32). -/
def dispCells : Nat := 2048

/-- The linear index of column `c`, row `r` (R33). -/
def cellIndex (c r : Nat) : Nat := r * dispW + c

/-- disp[L] (R32, R33). -/
def pixel (d : Display) (l : Nat) : Bool :=
  if h : l / dispW < 32 then d[l / dispW].getLsbD (l % dispW) else false

/-- disp[L] <- not disp[L] (R161). -/
def togglePixel (d : Display) (l : Nat) : Display :=
  if h : l / dispW < 32 then d.set (l / dispW) (d[l / dispW] ^^^ (1#64 <<< (l % dispW))) h else d

/-- The write phase of DRW over the linear indices of its lit bits, in order (R161): each cell is tested, then toggled; the
flag says whether some cell was on. -/
def blit : List Nat → Display → Bool → Display × Bool
  | [], d, hit => (d, hit)
  | l :: rest, d, hit => blit rest (togglePixel d l) (hit || pixel d l)

/-- The least pressed key, if any (R172). -/
def leastKey (key : Vector Bool 16) : Option Ix16 := allIx.find? (fun k => key[k])

/-! ### Faults -/

/-- The spec's own numeric code of a fault kind (R190). -/
def FaultKind.code : FaultKind → Nat
  | .stackOverflow => 1
  | .stackUnderflow => 2
  | .keyIndexOutOfRange => 3
  | .drawOutOfBounds => 4
  | .addressOutOfRange => 5
  | .unmappedOpcode => 6

/-- Raise a fault while an instruction executes (R13, R92): the record holds the fetch address, which is PC - 2 here because
the driver has advanced PC and no handler writes PC before its last fault check (R91, R193; log entry 16), and the word in IR.
Nothing else changes. -/
def raise (k : FaultKind) (s : State) : State :=
  { s with fault := some ⟨k, s.pc - 2, some s.ir⟩ }

/-- A handler's outcome: the state it computed, or the state it began in with the fault raised (R193). Both are next
states. -/
def conclude (s : State) (r : Except FaultKind State) : Host.Outcome State Fault Refusal :=
  match r with
  | .ok t => .next t
  | .error k => .next (raise k s)

end Sys2Proof.Machine
end

