-- ==== Sys2Proof/Machine/Cycle.lean ====
section
/-!
DEFINITION. The parts of the cycle driver (spec/40_cycle_driver.md R90 to R95) that stand around an instruction.
-/

namespace Sys2Proof.Machine

/-- The fetch (R90): the big-endian word at PC and PC + 1, each address mapped as the exact integer. -/
def fetch (s : State) : Except FaultKind Word :=
  match phys s.cfg.addrPolicy s.pc.toNat with
  | .error k => .error k
  | .ok a =>
    match phys s.cfg.addrPolicy (s.pc.toNat + 1) with
    | .error k => .error k
    | .ok b => .ok (wordOfBytes (s.mem.read a) (s.mem.read b))

/-- The state an instruction executes in: no tone yet, IR the fetched word, PC advanced by 2 (R90, R91, R93). -/
def beginExecute (w : Word) (s : State) : State :=
  { s with tone := false, ir := w, pc := s.pc + 2 }

/-- A fault raised by the fetch itself (R90, R193): PC and IR stay, the record has no word. -/
def raiseFetch (k : FaultKind) (s : State) : State :=
  { s with tone := false, fault := some ⟨k, s.pc, none⟩ }

/-- A timer's decrement: 0 stays 0 (R94). -/
def countDown (b : Byte) : Byte := if b = 0 then 0 else b - 1

/-- The timer step and the start tone (R94, R95). -/
def tickTimers (s : State) : State :=
  { s with
    dt := countDown s.dt
    st := countDown s.st
    tone := decide (s.st = 1)
    toneCount := if s.st = 1 then s.toneCount + 1 else s.toneCount }

/-- The rest of the Cycle after the handler: the timer step, or nothing more when the handler raised a fault (R93). -/
def finishCycle (o : Host.Outcome State Fault Refusal) : Host.Outcome State Fault Refusal :=
  match o with
  | .next t => .next (if t.fault.isSome then t else tickTimers t)
  | .fault r => .fault r
  | .refused r => .refused r

/-- A Cycle that begins faulted (R192): nothing changes and the tone output is false. -/
def haltedCycle (s : State) : State := { s with tone := false }

/-- A word stored where the next fetch reads it, high byte first (R54, R90), and no fault recorded, since a faulted core
fetches nothing (R192; log entry 13). -/
def placeWord (s : State) (w : Word) : State :=
  { s with
    mem := s.mem.writeAll
      [(s.pc.toNat % memSize, w.extractLsb' 8 8), ((s.pc.toNat + 1) % memSize, w.extractLsb' 0 8)]
    fault := none }

end Sys2Proof.Machine
end

