-- ==== Sys2Proof/Machine/Flags.lean ====
section
/-!
DEFINITION. The flag values of spec/42_alu.md and the writing of a result and a flag (R121).
-/

namespace Sys2Proof.Machine

/-- A condition as the flag byte 0x01 or 0x00 (R23). -/
def flagByte (c : Bool) : Byte := if c then 0x01#8 else 0x00#8

/-- ADD Vx, Vy: 1 iff the exact sum is above 255 (R128). -/
def carryFlag (a b : Byte) : Byte := flagByte (decide (a.toNat + b.toNat > 255))

/-- SUB and SUBN: 0 iff the minuend is below the subtrahend (R129, R131). -/
def noBorrowFlag (minuend subtrahend : Byte) : Byte := flagByte (!decide (minuend.toNat < subtrahend.toNat))

/-- SHR: the bit shifted out, V[x] & 0x01 (R130). -/
def shrFlag (a : Byte) : Byte := a &&& 0x01#8

/-- SHL: the bit shifted out, raw or as 0x01 (R132, D10). -/
def shlFlag (mode : ShlFlag) (a : Byte) : Byte :=
  match mode with
  | .raw => a &&& 0x80#8
  | .normalized => a >>> 7

/-- The register file after writing a result to `d` and a flag to VF in the configured order (R121, D8). -/
def putResultFlag (order : VfAliasOrder) (v : Vector Byte 16) (d : Ix16) (result flag : Byte) : Vector Byte 16 :=
  match order with
  | .flagLast => putReg (putReg v d result) vf flag
  | .resultLast => putReg (putReg v vf flag) d result

/-- writeRF(d, result, flag) (R121). -/
def State.writeRF (s : State) (d : Ix16) (result flag : Byte) : State :=
  { s with v := putResultFlag s.cfg.vfAliasOrder s.v d result flag }

/-- The register SUBN writes (R131, D9). -/
def subnDestIx (dest : SubnDest) (x y : Ix16) : Ix16 :=
  match dest with
  | .vy => y
  | .vx => x

end Sys2Proof.Machine
end

