-- ==== Sys2Proof/Machine/Alu.lean ====
section
/-!
DEFINITION. Register loads, arithmetic, logic, shifts and random (spec/42_alu.md). Every operand is read from the state the
instruction begins in (R120).
-/

namespace Sys2Proof.Machine

/-- LD Vx, NN (R122). -/
def execLdImm (x : Ix16) (nn : Byte) (s : State) : Host.Outcome State Fault Refusal :=
  .next (s.setReg x nn)

/-- ADD Vx, NN (R123): no flag. -/
def execAddImm (x : Ix16) (nn : Byte) (s : State) : Host.Outcome State Fault Refusal :=
  .next (s.setReg x (s.reg x + nn))

/-- LD Vx, Vy (R124). -/
def execLdReg (x y : Ix16) (s : State) : Host.Outcome State Fault Refusal :=
  .next (s.setReg x (s.reg y))

/-- OR Vx, Vy (R125). -/
def execOrReg (x y : Ix16) (s : State) : Host.Outcome State Fault Refusal :=
  .next (s.setReg x (s.reg x ||| s.reg y))

/-- AND Vx, Vy (R126). -/
def execAndReg (x y : Ix16) (s : State) : Host.Outcome State Fault Refusal :=
  .next (s.setReg x (s.reg x &&& s.reg y))

/-- XOR Vx, Vy (R127). -/
def execXorReg (x y : Ix16) (s : State) : Host.Outcome State Fault Refusal :=
  .next (s.setReg x (s.reg x ^^^ s.reg y))

/-- ADD Vx, Vy (R128). -/
def execAddReg (x y : Ix16) (s : State) : Host.Outcome State Fault Refusal :=
  .next (s.writeRF x (s.reg x + s.reg y) (carryFlag (s.reg x) (s.reg y)))

/-- SUB Vx, Vy (R129). -/
def execSub (x y : Ix16) (s : State) : Host.Outcome State Fault Refusal :=
  .next (s.writeRF x (s.reg x - s.reg y) (noBorrowFlag (s.reg x) (s.reg y)))

/-- SHR Vx (R130): y is neither read nor written. -/
def execShr (x _y : Ix16) (s : State) : Host.Outcome State Fault Refusal :=
  .next (s.writeRF x (s.reg x >>> 1) (shrFlag (s.reg x)))

/-- SUBN Vx, Vy (R131): V[y] - V[x], into the configured destination. -/
def execSubn (x y : Ix16) (s : State) : Host.Outcome State Fault Refusal :=
  .next (s.writeRF (subnDestIx s.cfg.subnDest x y) (s.reg y - s.reg x) (noBorrowFlag (s.reg y) (s.reg x)))

/-- SHL Vx (R132): y is neither read nor written. -/
def execShl (x _y : Ix16) (s : State) : Host.Outcome State Fault Refusal :=
  .next (s.writeRF x (s.reg x <<< 1) (shlFlag s.cfg.shlFlag (s.reg x)))

/-- RND Vx, NN with the byte `r` drawn (R133): exactly one draw is taken. -/
def rndWith (r : Byte) (x : Ix16) (nn : Byte) (s : State) : State :=
  { s.setReg x (r &&& nn) with draws := s.draws + 1 }

/-- RND Vx, NN (R133): the byte is the free value of this draw (log entry 3). -/
def execRnd (x : Ix16) (nn : Byte) (s : State) : Host.Outcome State Fault Refusal :=
  .next (rndWith (Config.randByte s.draws) x nn s)

end Sys2Proof.Machine
end

