-- ==== Sys2Proof/Machine/Operands.lean ====
section
/-!
DEFINITION. The operand forms of the instructions: immediates, the I-relative addresses (spec/43_index_memory.md R146), the key
index (R173), the decimal digits of LD B (R143) and the lit bits of a sprite (R161).
-/

namespace Sys2Proof.Machine

/-- zext_16(NNN) (R72). -/
def zext12 (nnn : Addr12) : Word := nnn.setWidth 16

/-- A register's value as a 16-bit addend (R10). -/
def zext8 (b : Byte) : Word := b.setWidth 16

/-- The effective address I + k, as the exact integer (R52, R146). -/
def indexAddr (s : State) (k : Nat) : Nat := s.i.toNat + k

/-- The addresses I + k of `n` consecutive bytes (R55). -/
def indexAddrs (s : State) (n : Nat) : List Nat := consecutive s.i.toNat n

/-- The keypad latch a register value names; above 15 there is none (R173, D13). -/
def keyIndex (b : Byte) : Except FaultKind Ix16 :=
  if h : b.toNat < 16 then .ok ⟨b.toNat, h⟩ else .error .keyIndexOutOfRange

/-- The hundreds digit (R143). -/
def bcdHundreds (v : Byte) : Byte := BitVec.ofNat 8 (v.toNat / 100)

/-- The tens digit (R143; that it goes to I + 1 is derived there, log entry 17). -/
def bcdTens (v : Byte) : Byte := BitVec.ofNat 8 (v.toNat / 10 % 10)

/-- The ones digit (R143). -/
def bcdOnes (v : Byte) : Byte := BitVec.ofNat 8 (v.toNat % 10)

/-- The writes of LD B, in order (R143, D11). Under Defect the hundreds digit overwrites the ones digit at I + 2. -/
def bcdWrites (mode : BcdMode) (s : State) (v : Byte) : List (Nat × Byte) :=
  match mode with
  | .defect => [(indexAddr s 2, bcdOnes v), (indexAddr s 1, bcdTens v), (indexAddr s 2, bcdHundreds v)]
  | .fixed => [(indexAddr s 0, bcdHundreds v), (indexAddr s 1, bcdTens v), (indexAddr s 2, bcdOnes v)]

/-- The writes of LD [I], Vx, in order: V[k] at I + k for k = 0 to x (R144). -/
def regWrites (s : State) (x : Ix16) : List (Nat × Byte) :=
  (ixUpTo x).map (fun k => (indexAddr s k.val, s.reg k))

/-- The register writes of LD Vx, [I], in order: the bytes read into V[0] to V[x] (R145). -/
def regLoads (x : Ix16) (bytes : List Byte) : List (Ix16 × Byte) := (ixUpTo x).zip bytes

/-- The column of DRW's origin, V[x] mod 64 (R161). -/
def originX (b : Byte) : Nat := b.toNat % dispW

/-- The row of DRW's origin, V[y] mod 32 (R161). -/
def originY (b : Byte) : Nat := b.toNat % dispH

/-- The columns 0 to 7 of a sprite byte that are lit; bit 7 is column 0 (R161 (8); log entry 15). -/
def litColumns (b : Byte) : List Nat := (List.range 8).filter (fun c => b.getLsbD (7 - c))

/-- The grid cells (column, row) of a sprite's lit bits, unwrapped, rows and columns ascending (R161). -/
def litCells (x0 y0 : Nat) (rows : List Byte) : List (Nat × Nat) :=
  rows.zipIdx.flatMap (fun r => (litColumns r.1).map (fun c => (x0 + c, y0 + r.2)))

/-- Whether a lit bit's cell may be drawn (R161, D14): inside the buffer, or inside the grid. -/
def cellFits (edge : DrawEdge) (cell : Nat × Nat) : Bool :=
  match edge with
  | .linear => decide (cellIndex cell.1 cell.2 < dispCells)
  | .fault => decide (cell.1 < dispW) && decide (cell.2 < dispH)

end Sys2Proof.Machine
end

