-- ==== Sys2Proof/Machine/ControlFlow.lean ====
section
/-!
DEFINITION. Control flow (spec/41_control_flow.md). PC in a meaning is the fetch address + 2 (R91).
-/

namespace Sys2Proof.Machine

/-- RET (R101). -/
def execRet (s : State) : Host.Outcome State Fault Refusal :=
  if s.sp = 0 then .next (raise .stackUnderflow s)
  else
    match stackEntry (s.sp - 1) with
    | some k => .next { s with sp := s.sp - 1, pc := s.stack[k] }
    | none => .fault .stackEntryAbsent

/-- JP NNN (R102). -/
def execJp (nnn : Addr12) (s : State) : Host.Outcome State Fault Refusal :=
  .next { s with pc := zext12 nnn }

/-- CALL NNN (R103). -/
def execCall (nnn : Addr12) (s : State) : Host.Outcome State Fault Refusal :=
  if s.sp = 16 then .next (raise .stackOverflow s)
  else
    match stackEntry s.sp with
    | some k => .next { s.push k s.pc with pc := zext12 nnn }
    | none => .fault .stackEntryAbsent

/-- SE Vx, NN (R104). -/
def execSeImm (x : Ix16) (nn : Byte) (s : State) : Host.Outcome State Fault Refusal :=
  .next (if s.reg x = nn then s.skip else s)

/-- SNE Vx, NN (R105). -/
def execSneImm (x : Ix16) (nn : Byte) (s : State) : Host.Outcome State Fault Refusal :=
  .next (if s.reg x ≠ nn then s.skip else s)

/-- SE Vx, Vy (R106). -/
def execSeReg (x y : Ix16) (s : State) : Host.Outcome State Fault Refusal :=
  .next (if s.reg x = s.reg y then s.skip else s)

/-- SNE Vx, Vy (R107). -/
def execSneReg (x y : Ix16) (s : State) : Host.Outcome State Fault Refusal :=
  .next (if s.reg x ≠ s.reg y then s.skip else s)

/-- JP V0, NNN (R108): the sum always fits 16 bits. -/
def execJpV0 (nnn : Addr12) (s : State) : Host.Outcome State Fault Refusal :=
  .next { s with pc := zext8 (s.reg 0) + zext12 nnn }

/-- NOP, the handler of unmapped words (R116), or the fault of UNMAPPED_POLICY = Fault (R80). The word of a fault record is
the one in IR. -/
def execNop (_w : Word) (s : State) : Host.Outcome State Fault Refusal :=
  match s.cfg.unmappedPolicy with
  | .noOp => .next s
  | .fault => .next (raise .unmappedOpcode s)

end Sys2Proof.Machine
end

