-- ==== Sys2Proof/Machine/Display.lean ====
section
/-!
DEFINITION. The display instructions (spec/44_display.md).
-/

namespace Sys2Proof.Machine

/-- CLS (R160): every pixel off. -/
def execCls (s : State) : Host.Outcome State Fault Refusal :=
  .next { s with disp := Vector.replicate 32 0#64 }

/-- The sprite of DRW, read at I + r for r = 0 to n - 1 (R161). -/
def spriteRows (s : State) (n : Ix16) : Except FaultKind (List Byte) :=
  loadBytes s.cfg.addrPolicy s.mem (indexAddrs s n.val)

/-- The cells of DRW's lit bits, from the origin of R161 (read before VF is written, D15). -/
def spriteCells (s : State) (x y : Ix16) (rows : List Byte) : List (Nat × Nat) :=
  litCells (originX (s.reg x)) (originY (s.reg y)) rows

/-- The write phase of DRW (R161): the cells toggled, VF the collision. -/
def drawCells (s : State) (cells : List (Nat × Nat)) : State :=
  let r := blit (cells.map (fun c => cellIndex c.1 c.2)) s.disp false
  { s.setReg vf (flagByte r.2) with disp := r.1 }

/-- DRW Vx, Vy, N (R161): the sprite is read (R194 (3): an address fault first), every lit bit is checked, then drawn. -/
def execDrw (x y n : Ix16) (s : State) : Host.Outcome State Fault Refusal :=
  conclude s
    (match spriteRows s n with
     | .error k => .error k
     | .ok rows =>
       if (spriteCells s x y rows).all (cellFits s.cfg.drawEdge) then .ok (drawCells s (spriteCells s x y rows))
       else .error .drawOutOfBounds)

end Sys2Proof.Machine
end

