-- ==== Sys2Proof/Machine/IndexMemory.lean ====
section
/-!
DEFINITION. The index register and memory instructions (spec/43_index_memory.md). Every address is checked before the first
write (R193).
-/

namespace Sys2Proof.Machine

/-- LD I, NNN (R140). -/
def execLdI (nnn : Addr12) (s : State) : Host.Outcome State Fault Refusal :=
  .next { s with i := zext12 nnn }

/-- ADD I, Vx (R141): 16-bit wrap, no flag. -/
def execAddI (x : Ix16) (s : State) : Host.Outcome State Fault Refusal :=
  .next { s with i := s.i + zext8 (s.reg x) }

/-- LD F, Vx (R142): FONT_BASE + 5 * V[x], unmasked (D12). -/
def execLdF (x : Ix16) (s : State) : Host.Outcome State Fault Refusal :=
  .next { s with i := BitVec.ofNat 16 (fontBase + 5 * (s.reg x).toNat) }

/-- LD B, Vx (R143). -/
def execLdB (x : Ix16) (s : State) : Host.Outcome State Fault Refusal :=
  conclude s ((storeBytes s.cfg.addrPolicy s.mem (bcdWrites s.cfg.bcdMode s (s.reg x))).map
    (fun m => { s with mem := m }))

/-- LD [I], Vx (R144): I is not changed (D16). -/
def execLdMemVx (x : Ix16) (s : State) : Host.Outcome State Fault Refusal :=
  conclude s ((storeBytes s.cfg.addrPolicy s.mem (regWrites s x)).map (fun m => { s with mem := m }))

/-- LD Vx, [I] (R145): I is not changed (D16). -/
def execLdVxMem (x : Ix16) (s : State) : Host.Outcome State Fault Refusal :=
  conclude s ((loadBytes s.cfg.addrPolicy s.mem (indexAddrs s (x.val + 1))).map
    (fun bytes => { s with v := putRegs s.v (regLoads x bytes) }))

end Sys2Proof.Machine
end

