-- ==== Sys2Proof/Machine/KeysTimers.lean ====
section
/-!
DEFINITION. The keypad and timer instructions (spec/45_keys_timers.md).
-/

namespace Sys2Proof.Machine

/-- Skip when the latch V[x] names is at `level`; no latch above 15 (R170, R171, R173). -/
def skipOnKey (level : Bool) (x : Ix16) (s : State) : Except FaultKind State :=
  match keyIndex (s.reg x) with
  | .error k => .error k
  | .ok k => .ok (if s.key[k] = level then s.skip else s)

/-- SKP Vx (R170). -/
def execSkp (x : Ix16) (s : State) : Host.Outcome State Fault Refusal :=
  conclude s (skipOnKey true x s)

/-- SKNP Vx (R171). -/
def execSknp (x : Ix16) (s : State) : Host.Outcome State Fault Refusal :=
  conclude s (skipOnKey false x s)

/-- LD Vx, DT (R174): DT before this Cycle's decrement. -/
def execLdVxDt (x : Ix16) (s : State) : Host.Outcome State Fault Refusal :=
  .next (s.setReg x s.dt)

/-- LD Vx, K (R172): the least pressed key, or back to this instruction's own address. -/
def execLdVxK (x : Ix16) (s : State) : Host.Outcome State Fault Refusal :=
  .next
    (match leastKey s.key with
     | some k => s.setReg x (BitVec.ofNat 8 k.val)
     | none => { s with pc := s.pc - 2 })

/-- LD DT, Vx (R175): the same Cycle then decrements DT. -/
def execLdDtVx (x : Ix16) (s : State) : Host.Outcome State Fault Refusal :=
  .next { s with dt := s.reg x }

/-- LD ST, Vx (R176): the same Cycle then decrements ST. -/
def execLdStVx (x : Ix16) (s : State) : Host.Outcome State Fault Refusal :=
  .next { s with st := s.reg x }

end Sys2Proof.Machine
end

