-- ==== Sys2Proof/Machine/Step.lean ====
section
/-!
DEFINITION. One Cycle (spec/40_cycle_driver.md R93), and how a word is placed where the next Cycle fetches it.
-/

namespace Sys2Proof.Machine

/-- One Cycle (R93): a faulted core changes nothing (R192); otherwise fetch, advance PC, decode, execute, step the timers. No clock and
no interrupt (log entry 4). -/
def step (s : State) : Host.Outcome State Fault Refusal :=
  if s.fault.isSome then .next (haltedCycle s)
  else
    match fetch s with
    | .error k => .next (raiseFetch k s)
    | .ok w => finishCycle (exec (decode s.cfg.decodeMode w) (beginExecute w s))

/-- `s` with the instruction word of the low `nbits` bits of `w` stored where `step` fetches next (log entry 13). -/
def State.withFetchWord (s : State) (nbits w : Nat) : State :=
  placeWord s (BitVec.ofNat 16 (w % 2 ^ nbits))

end Sys2Proof.Machine
end

