-- ==== Sys2Proof/Machine/HostInterface.lean ====
section
/-!
DEFINITION. What the host can do to the core between Cycles (spec/60_exceptions.md R203 to R208, spec/70_reset_and_hazards.md
R220 to R224), and runs of Cycles (R99). No instruction does any of it.
-/

namespace Sys2Proof.Machine

/-- PROGRAM_BASE (R6): the load address of a ROM. -/
def programBase : Nat := 0x200

/-- MAX_ROM (R6): the largest ROM that fits. -/
def maxRom : Nat := 3584

/-- Bytes laid out from an address on, ascending. -/
def bytesFrom (base : Nat) (bytes : List Byte) : List (Nat × Byte) :=
  bytes.zipIdx.map (fun b => (base + b.2, b.1))

/-- Reset of a core built with the given parameters and FONT table (R7, R221, D25): zeros, then the font at FONT_BASE. -/
def State.construct (cfg : Config) (font : Vector Byte 80) : State :=
  { State.reset with
    cfg := cfg
    mem := Memory.writeAll [] (bytesFrom fontBase font.toList) }

/-- LoadROM (R222): the ROM's bytes verbatim from 0x200 on; a ROM that does not fit is refused (D19). -/
def State.loadRom (s : State) (rom : List Byte) : Option State :=
  if rom.length ≤ maxRom then some { s with mem := s.mem.writeAll (bytesFrom programBase rom) } else none

/-- The launch state of a model (R224), under the default parameters and font. -/
def State.launch (rom : List Byte) : Option State := State.reset.loadRom rom

/-- The host sets one latch between Cycles (R206). -/
def State.setKey (s : State) (k : Ix16) (pressed : Bool) : State :=
  { s with key := s.key.set k.val pressed k.isLt }

/-- The host sets every latch between Cycles (R206). -/
def State.setKeypad (s : State) (key : Vector Bool 16) : State := { s with key := key }

/-- The host reads one display cell between Cycles (R205): column c, row r of the 64 x 32 grid. -/
def State.displayCell (s : State) (c r : Nat) : Bool := pixel s.disp (cellIndex c r)

/-- One Cycle as the host sees it (R98): the keypad is what the host left before the call. -/
def cycleWith (key : Vector Bool 16) (s : State) : Host.Outcome State Fault Refusal := step (s.setKeypad key)

/-- A run of Cycles (R99) with the host's keypad at each Cycle a free input (R206, D23). -/
def runCycles : List (Vector Bool 16) → State → Host.Outcome State Fault Refusal
  | [], s => .next s
  | key :: rest, s =>
    match cycleWith key s with
    | .next t => runCycles rest t
    | .fault r => .fault r
    | .refused r => .refused r

end Sys2Proof.Machine
end

