-- ==== Sys2Proof/WellFormed.lean ====
section
/-!
DEFINITION. The rows of spec/opcode_table.json as masks and patterns, and when an instruction is well formed. The table is
written here apart from the decoder, so that the two can be held against each other.
-/

namespace Sys2Proof

/-- One row of the opcode table: the row selects a word `w` when `w &&& mask = pattern` (spec/INDEX.md, "Reading
opcode_table.json"), with one pair for DECODE_MODE = Keyed and one for Exact (R79). -/
structure TableRow where
  mnemonic     : String
  keyedPattern : Word
  keyedMask    : Word
  exactPattern : Word
  exactMask    : Word
  deriving DecidableEq, Repr

/-- The row's pattern in a decode mode. -/
def TableRow.pattern (r : TableRow) : DecodeMode → Word
  | .keyed => r.keyedPattern
  | .exact => r.exactPattern

/-- The row's mask in a decode mode. -/
def TableRow.mask (r : TableRow) : DecodeMode → Word
  | .keyed => r.keyedMask
  | .exact => r.exactMask

/-- The row selects the word in that mode. -/
def TableRow.selects (r : TableRow) (m : DecodeMode) (w : Word) : Bool :=
  w &&& r.mask m == r.pattern m

/-- The row of spec/opcode_table.json an instruction belongs to. -/
def Instr.row : Instr → TableRow
  | .cls => ⟨"CLS", 0x0000#16, 0xF00F#16, 0x00E0#16, 0xFFFF#16⟩
  | .ret => ⟨"RET", 0x000E#16, 0xF00F#16, 0x00EE#16, 0xFFFF#16⟩
  | .jp _ => ⟨"JP_NNN", 0x1000#16, 0xF000#16, 0x1000#16, 0xF000#16⟩
  | .call _ => ⟨"CALL_NNN", 0x2000#16, 0xF000#16, 0x2000#16, 0xF000#16⟩
  | .seImm _ _ => ⟨"SE_Vx__NN", 0x3000#16, 0xF000#16, 0x3000#16, 0xF000#16⟩
  | .sneImm _ _ => ⟨"SNE_Vx__NN", 0x4000#16, 0xF000#16, 0x4000#16, 0xF000#16⟩
  | .seReg _ _ => ⟨"SE_Vx__Vy", 0x5000#16, 0xF000#16, 0x5000#16, 0xF00F#16⟩
  | .ldImm _ _ => ⟨"LD_Vx__NN", 0x6000#16, 0xF000#16, 0x6000#16, 0xF000#16⟩
  | .addImm _ _ => ⟨"ADD_Vx__NN", 0x7000#16, 0xF000#16, 0x7000#16, 0xF000#16⟩
  | .ldReg _ _ => ⟨"LD_Vx__Vy", 0x8000#16, 0xF00F#16, 0x8000#16, 0xF00F#16⟩
  | .orReg _ _ => ⟨"OR_Vx__Vy", 0x8001#16, 0xF00F#16, 0x8001#16, 0xF00F#16⟩
  | .andReg _ _ => ⟨"AND_Vx__Vy", 0x8002#16, 0xF00F#16, 0x8002#16, 0xF00F#16⟩
  | .xorReg _ _ => ⟨"XOR_Vx__Vy", 0x8003#16, 0xF00F#16, 0x8003#16, 0xF00F#16⟩
  | .addReg _ _ => ⟨"ADD_Vx__Vy", 0x8004#16, 0xF00F#16, 0x8004#16, 0xF00F#16⟩
  | .sub _ _ => ⟨"SUB_Vx__Vy", 0x8005#16, 0xF00F#16, 0x8005#16, 0xF00F#16⟩
  | .shr _ _ => ⟨"SHR_Vx", 0x8006#16, 0xF00F#16, 0x8006#16, 0xF00F#16⟩
  | .subn _ _ => ⟨"SUBN_Vx__Vy", 0x8007#16, 0xF00F#16, 0x8007#16, 0xF00F#16⟩
  | .shl _ _ => ⟨"SHL_Vx", 0x800E#16, 0xF00F#16, 0x800E#16, 0xF00F#16⟩
  | .sneReg _ _ => ⟨"SNE_Vx__Vy", 0x9000#16, 0xF000#16, 0x9000#16, 0xF00F#16⟩
  | .ldI _ => ⟨"LD_I__NNN", 0xA000#16, 0xF000#16, 0xA000#16, 0xF000#16⟩
  | .jpV0 _ => ⟨"JP_V0__NNN", 0xB000#16, 0xF000#16, 0xB000#16, 0xF000#16⟩
  | .rnd _ _ => ⟨"RND_Vx__NN", 0xC000#16, 0xF000#16, 0xC000#16, 0xF000#16⟩
  | .drw _ _ _ => ⟨"DRW_Vx__Vy__N", 0xD000#16, 0xF000#16, 0xD000#16, 0xF000#16⟩
  | .skp _ => ⟨"SKP_Vx", 0xE00E#16, 0xF00F#16, 0xE09E#16, 0xF0FF#16⟩
  | .sknp _ => ⟨"SKNP_Vx", 0xE001#16, 0xF00F#16, 0xE0A1#16, 0xF0FF#16⟩
  | .ldVxDt _ => ⟨"LD_Vx__DT", 0xF007#16, 0xF0FF#16, 0xF007#16, 0xF0FF#16⟩
  | .ldVxK _ => ⟨"LD_Vx__K", 0xF00A#16, 0xF0FF#16, 0xF00A#16, 0xF0FF#16⟩
  | .ldDtVx _ => ⟨"LD_DT__Vx", 0xF015#16, 0xF0FF#16, 0xF015#16, 0xF0FF#16⟩
  | .ldStVx _ => ⟨"LD_ST__Vx", 0xF018#16, 0xF0FF#16, 0xF018#16, 0xF0FF#16⟩
  | .addI _ => ⟨"ADD_I__Vx", 0xF01E#16, 0xF0FF#16, 0xF01E#16, 0xF0FF#16⟩
  | .ldF _ => ⟨"LD_F__Vx", 0xF029#16, 0xF0FF#16, 0xF029#16, 0xF0FF#16⟩
  | .ldB _ => ⟨"LD_B__Vx", 0xF033#16, 0xF0FF#16, 0xF033#16, 0xF0FF#16⟩
  | .ldMemVx _ => ⟨"LD__I___Vx", 0xF055#16, 0xF0FF#16, 0xF055#16, 0xF0FF#16⟩
  | .ldVxMem _ => ⟨"LD_Vx___I", 0xF065#16, 0xF0FF#16, 0xF065#16, 0xF0FF#16⟩
  | .nop _ => ⟨"NOP", 0x0000#16, 0x0000#16, 0x0000#16, 0x0000#16⟩

/-- The rows of families 0 to 7, in the table's order. -/
def tableRows0 : List TableRow :=
  [Instr.row (.cls),
   Instr.row (.ret),
   Instr.row (.jp 0),
   Instr.row (.call 0),
   Instr.row (.seImm 0 0),
   Instr.row (.sneImm 0 0),
   Instr.row (.seReg 0 0),
   Instr.row (.ldImm 0 0),
   Instr.row (.addImm 0 0)]

/-- The rows of families 8 to D, in the table's order. -/
def tableRows8 : List TableRow :=
  [Instr.row (.ldReg 0 0),
   Instr.row (.orReg 0 0),
   Instr.row (.andReg 0 0),
   Instr.row (.xorReg 0 0),
   Instr.row (.addReg 0 0),
   Instr.row (.sub 0 0),
   Instr.row (.shr 0 0),
   Instr.row (.subn 0 0),
   Instr.row (.shl 0 0),
   Instr.row (.sneReg 0 0),
   Instr.row (.ldI 0),
   Instr.row (.jpV0 0),
   Instr.row (.rnd 0 0),
   Instr.row (.drw 0 0 0)]

/-- The rows of families E and F, in the table's order. -/
def tableRowsE : List TableRow :=
  [Instr.row (.skp 0),
   Instr.row (.sknp 0),
   Instr.row (.ldVxDt 0),
   Instr.row (.ldVxK 0),
   Instr.row (.ldDtVx 0),
   Instr.row (.ldStVx 0),
   Instr.row (.addI 0),
   Instr.row (.ldF 0),
   Instr.row (.ldB 0),
   Instr.row (.ldMemVx 0),
   Instr.row (.ldVxMem 0)]

/-- Every row but NOP's, which has the lowest priority (spec/INDEX.md). -/
def tableRows : List TableRow := tableRows0 ++ tableRows8 ++ tableRowsE

/-- Some row other than NOP's selects the word (R80). -/
def wordMapped (m : DecodeMode) (w : Word) : Bool := tableRows.any (fun r => r.selects m w)

/-- Well-formed in a decode mode: the fields are in range by their types, and NOP carries a word that no other row selects
(R80, R116). -/
def Instr.wf (m : DecodeMode) : Instr → Bool
  | .nop w => !wordMapped m w
  | .cls => true
  | .ret => true
  | .jp _ => true
  | .call _ => true
  | .seImm _ _ => true
  | .sneImm _ _ => true
  | .seReg _ _ => true
  | .ldImm _ _ => true
  | .addImm _ _ => true
  | .ldReg _ _ => true
  | .orReg _ _ => true
  | .andReg _ _ => true
  | .xorReg _ _ => true
  | .addReg _ _ => true
  | .sub _ _ => true
  | .shr _ _ => true
  | .subn _ _ => true
  | .shl _ _ => true
  | .sneReg _ _ => true
  | .ldI _ => true
  | .jpV0 _ => true
  | .rnd _ _ => true
  | .drw _ _ _ => true
  | .skp _ => true
  | .sknp _ => true
  | .ldVxDt _ => true
  | .ldVxK _ => true
  | .ldDtVx _ => true
  | .ldStVx _ => true
  | .addI _ => true
  | .ldF _ => true
  | .ldB _ => true
  | .ldMemVx _ => true
  | .ldVxMem _ => true

end Sys2Proof
end

