-- ==== Sys2Proof/Safety.lean ====
section
/-!
DEFINITION. What counts as a safe run, the invariant of the machine, and the words the statements are written in: the parts of
the state, frames, and the spec's own tables of what an instruction writes (spec/10_state.md R22, spec/40_cycle_driver.md R97).
Nothing here is used by the machine.
-/

namespace Sys2Proof.Machine

/-- A safe state: no fault is recorded. A recorded fault is a failure, never a normal end (R192). -/
def Safe (s : State) : Prop := s.fault = none

/-! ### Frames -/

/-- The parts of the state other than the general registers. -/
inductive Part where
  | pc
  | index
  | sp
  | stack
  | delay
  | sound
  | memory
  | display
  | keypad
  | ir
  | fault
  | tone
  | toneCount
  | draws
  | config
  deriving DecidableEq, Repr

/-- The part is the same in both states; for memory, every byte reads the same. -/
def SamePart (p : Part) (s t : State) : Prop :=
  match p with
  | .pc => t.pc = s.pc
  | .index => t.i = s.i
  | .sp => t.sp = s.sp
  | .stack => t.stack = s.stack
  | .delay => t.dt = s.dt
  | .sound => t.st = s.st
  | .memory => ∀ a, t.mem.read a = s.mem.read a
  | .display => t.disp = s.disp
  | .keypad => t.key = s.key
  | .ir => t.ir = s.ir
  | .fault => t.fault = s.fault
  | .tone => t.tone = s.tone
  | .toneCount => t.toneCount = s.toneCount
  | .draws => t.draws = s.draws
  | .config => t.cfg = s.cfg

/-- Everything but the named parts and the named registers is the same in both states. -/
def Frame (parts : List Part) (regs : List Ix16) (s t : State) : Prop :=
  (∀ p, p ∉ parts → SamePart p s t) ∧ (∀ r, r ∉ regs → t.reg r = s.reg r)

/-- The fault `k` is recorded and nothing else changes (R13, R193). -/
def RaisesOnly (k : FaultKind) (s t : State) : Prop :=
  (∃ f, t.fault = some f ∧ f.kind = k) ∧ Frame [.fault] [] s t

/-! ### What the spec's tables say an instruction writes -/

/-- The "writes" column of R22: the general registers an instruction may write. -/
def regsWritten (cfg : Config) : Instr → List Ix16
  | .ldImm x _ | .addImm x _ | .ldReg x _ | .orReg x _ | .andReg x _ | .xorReg x _ => [x]
  | .addReg x _ | .sub x _ | .shr x _ | .shl x _ => [x, vf]
  | .subn x y => if cfg.subnDest = .vy then [y, vf] else [x, vf]
  | .rnd x _ | .ldVxDt x | .ldVxK x => [x]
  | .drw _ _ _ => [vf]
  | .ldVxMem x => ixUpTo x
  | .cls | .ret | .jp _ | .call _ | .seImm _ _ | .sneImm _ _ | .seReg _ _ | .sneReg _ _ | .ldI _ | .jpV0 _
  | .skp _ | .sknp _ | .ldDtVx _ | .ldStVx _ | .addI _ | .ldF _ | .ldB _ | .ldMemVx _ | .nop _ => []

/-- The other parts of the state an instruction may write, as R24 to R34 and R190 name their writers. -/
def partsWritten : Instr → List Part
  | .cls => [.display]
  | .ret => [.pc, .sp, .fault]
  | .call _ => [.pc, .sp, .stack, .fault]
  | .jp _ | .jpV0 _ | .seImm _ _ | .sneImm _ _ | .seReg _ _ | .sneReg _ _ | .ldVxK _ => [.pc]
  | .ldImm _ _ | .addImm _ _ | .ldReg _ _ | .orReg _ _ | .andReg _ _ | .xorReg _ _ | .addReg _ _ | .sub _ _ | .shr _ _
  | .subn _ _ | .shl _ _ | .ldVxDt _ => []
  | .ldI _ | .addI _ | .ldF _ => [.index]
  | .rnd _ _ => [.draws]
  | .drw _ _ _ => [.display, .fault]
  | .skp _ | .sknp _ => [.pc, .fault]
  | .ldDtVx _ => [.delay]
  | .ldStVx _ => [.sound]
  | .ldB _ | .ldMemVx _ => [.memory, .fault]
  | .ldVxMem _ | .nop _ => [.fault]

/-- A result `result` for register `d` and a flag for VF are written (R121): both where `d` is not VF, and the one
VF_ALIAS_ORDER writes last where it is. Nothing else changes. -/
def ResultFlag (d : Ix16) (result : Nat) (flag : Byte) (s t : State) : Prop :=
  (d ≠ vf → (t.reg d).toNat = result ∧ t.reg vf = flag) ∧
  (d = vf → s.cfg.vfAliasOrder = .flagLast → t.reg vf = flag) ∧
  (d = vf → s.cfg.vfAliasOrder = .resultLast → (t.reg vf).toNat = result) ∧
  Frame [] [d, vf] s t

/-! ### Fetching -/

/-- No fault is recorded and the next Cycle fetches a word that decodes to `i` (R90, R92). -/
def Runs (i : Instr) (s : State) : Prop :=
  s.fault = none ∧ ∃ w, fetch s = .ok w ∧ decode s.cfg.decodeMode w = i

/-- The key V[x] names is pressed; no key is named above 15 (R170). -/
def keyDown (s : State) (x : Ix16) : Bool :=
  if h : (s.reg x).toNat < 16 then s.key[(s.reg x).toNat] else false

/-- PC after a Cycle that completes, from the fetch address `a` (the table of R97). -/
def pcAfter (i : Instr) (s : State) (a : Word) : Word :=
  match i with
  | .seImm x nn => if s.reg x = nn then a + 4 else a + 2
  | .sneImm x nn => if s.reg x = nn then a + 2 else a + 4
  | .seReg x y => if s.reg x = s.reg y then a + 4 else a + 2
  | .sneReg x y => if s.reg x = s.reg y then a + 2 else a + 4
  | .skp x => if keyDown s x then a + 4 else a + 2
  | .sknp x => if keyDown s x then a + 2 else a + 4
  | .jp nnn | .call nnn => nnn.setWidth 16
  | .jpV0 nnn => BitVec.ofNat 16 ((s.reg 0).toNat + nnn.toNat)
  | .ret =>
    match stackEntry (s.sp - 1) with
    | some k => s.stack[k]
    | none => a + 2
  | .ldVxK _ => if allIx.any (fun k => s.key[k]) then a + 2 else a
  | .cls | .ldImm _ _ | .addImm _ _ | .ldReg _ _ | .orReg _ _ | .andReg _ _ | .xorReg _ _ | .addReg _ _ | .sub _ _
  | .shr _ _ | .subn _ _ | .shl _ _ | .ldI _ | .rnd _ _ | .drw _ _ _ | .ldVxDt _ | .ldDtVx _ | .ldStVx _ | .addI _
  | .ldF _ | .ldB _ | .ldMemVx _ | .ldVxMem _ | .nop _ => a + 2

/-- The delay timer when the Cycle's decrement begins (R94). -/
def delayBeforeTick (i : Instr) (s : State) : Byte :=
  match i with
  | .ldDtVx x => s.reg x
  | _ => s.dt

/-- The sound timer when the Cycle's decrement begins (R95). -/
def soundBeforeTick (i : Instr) (s : State) : Byte :=
  match i with
  | .ldStVx x => s.reg x
  | _ => s.st

/-! ### Data addresses and sprites -/

/-- The five bytes of the font's glyph of digit `d` in memory, at 0x050 + 5 * d (R36). -/
def glyph (m : Memory) (d : Nat) : List Byte := (List.range 5).map (fun r => m.read (0x050 + 5 * d + r))

/-- The addresses I to I + last may be accessed: AddressOutOfRange is raised only under ADDR_POLICY = Fault and above 0xFFF
(R52, R143 to R145). -/
def AddrsOk (s : State) (last : Nat) : Prop := s.cfg.addrPolicy = .wrap ∨ s.i.toNat + last ≤ 0xFFF

/-- DRW's sprite may be read: N rows at I to I + N - 1, and none when N = 0 (R161 (4)). -/
def SpriteOk (s : State) (n : Ix16) : Prop := n = 0 ∨ AddrsOk s (n.val - 1)

/-- Bit `c` columns from the left in row `r` of DRW's sprite is lit: bit 7 - c of the byte at I + r (R161). -/
def Lit (s : State) (n : Ix16) (r c : Nat) : Prop :=
  r < n.val ∧ c < 8 ∧ (s.mem.read ((s.i.toNat + r) % memSize)).getLsbD (7 - c) = true

/-- The column, unwrapped, of sprite column `c` (R161). -/
def litColumn (s : State) (x : Ix16) (c : Nat) : Nat := (s.reg x).toNat % 64 + c

/-- The row, unwrapped, of sprite row `r` (R161). -/
def litRow (s : State) (y : Ix16) (r : Nat) : Nat := (s.reg y).toNat % 32 + r

/-- A lit bit is where DRAW_EDGE does not let it be drawn (R161, D14). -/
def OffEdge (s : State) (x y n : Ix16) : Prop :=
  ∃ r c, Lit s n r c ∧
    match s.cfg.drawEdge with
    | .linear => litRow s y r * 64 + litColumn s x c ≥ 2048
    | .fault => litColumn s x c ≥ 64 ∨ litRow s y r ≥ 32

/-- Some lit bit lands on cell L (R161). -/
def Covers (s : State) (x y n : Ix16) (l : Nat) : Prop :=
  ∃ r c, Lit s n r c ∧ litRow s y r * 64 + litColumn s x c = l

/-! ### The invariant -/

/-- A fault record that the spec's conditions can give (R190, R193): no word only for a fetch's address fault, and the two
policy faults only under their policies. -/
def FaultLegal (cfg : Config) (f : FaultRecord) : Prop :=
  (f.word = none → f.kind = .addressOutOfRange) ∧
  (f.kind = .addressOutOfRange → cfg.addrPolicy = .fault) ∧
  (f.kind = .unmappedOpcode → cfg.unmappedPolicy = .fault)

/-- What every Cycle keeps: memory in canonical form (log entry 8), SP in 0..16 (R27), a legal fault record (R190), and no
tone in a faulted state (R93, R192). -/
structure Inv (s : State) : Prop where
  memWf : s.mem.wf = true
  spRange : s.sp.toNat ≤ 16
  faultLegal : ∀ f, s.fault = some f → FaultLegal s.cfg f
  quietFault : s.fault ≠ none → s.tone = false

/-- When an instruction faults under the default policies (R191). -/
def DefaultFault (i : Instr) (s : State) : Prop :=
  match i with
  | .call _ => s.sp = 16
  | .ret => s.sp = 0
  | .skp x | .sknp x => (s.reg x).toNat > 15
  | .drw x y n => ∃ r c, Lit s n r c ∧ litRow s y r * 64 + litColumn s x c ≥ 2048
  | _ => False

end Sys2Proof.Machine
end

