-- ==== Sys2Proof/Certificates/Slice0/Obligations.lean ====
section
/-!
DEFINITION. The statements for the provers, from the numbered rules of spec/. A Frame says what an instruction leaves unchanged
(Safety.lean); a statement about an instruction says from which states it completes, with what result.
-/

open Sys2Proof Sys2Proof.Machine

/-- Words of 95_test_vectors.md 2.1, 600A, 8014 and D005 of its 1.1 and 1.2, and A300 of R140 (M1), read by the decode of R81.
R81's UNMAPPED has no operand: that the three NOP clauses carry the word is the model's choice (log entry 11). -/
def Obligations.SampleWordsDecode : Prop :=
  decode .keyed 0x0000#16 = .cls ∧ decode .exact 0x0000#16 = .nop 0x0000#16 ∧
  decode .keyed 0x012E#16 = .ret ∧ decode .exact 0x00EE#16 = .ret ∧
  decode .keyed 0x600A#16 = .ldImm 0 0x0A#8 ∧ decode .keyed 0x8014#16 = .addReg 0 1 ∧
  decode .keyed 0xD005#16 = .drw 0 0 5 ∧ decode .keyed 0x5011#16 = .seReg 0 1 ∧
  decode .exact 0x5011#16 = .nop 0x5011#16 ∧ decode .keyed 0x812E#16 = .shl 1 2 ∧
  decode .keyed 0xE0AE#16 = .skp 0 ∧ decode .exact 0xE0A1#16 = .sknp 0 ∧
  decode .keyed 0xA300#16 = .ldI 0x300#12 ∧ decode .exact 0xFF65#16 = .ldVxMem 15 ∧
  decode .keyed 0x800F#16 = .nop 0x800F#16

/-- The canonical words of R83 against the decode of R81. NOP's operand, the word itself, is the model's choice (log entry 11). -/
def Obligations.DecodeEncode : Prop :=
  ∀ (m : DecodeMode) (i : Instr), i.wf m = true → decode m (encode i) = i

/-- R79: Exact maps only the standard words. Rests on NOP carrying its word and SHR and SHL carrying y (R81; log entry 11). -/
def Obligations.ExactDecodeKeepsTheWord : Prop :=
  ∀ w : Word, encode (decode .exact w) = w

/-- spec/INDEX.md, Reading opcode_table.json: a row selects w when w & mask = match. -/
def Obligations.DecodeSelectsTheTableRow : Prop :=
  ∀ (m : DecodeMode) (w : Word), (decode m w).wf m = true ∧ (decode m w).row.selects m w = true

/-- spec/INDEX.md: in either mode at most one non-NOP row selects any word, and NOP takes every other word. -/
def Obligations.TableRowDecides : Prop :=
  ∀ (m : DecodeMode) (w : Word), ∀ r ∈ tableRows, r.selects m w = true → (decode m w).row = r

/-- R79 (derived there): Exact only turns the aliases of Keyed into unmapped words. -/
def Obligations.StandardWordsAgree : Prop :=
  ∀ w : Word, decode .exact w ≠ .nop w → decode .keyed w = decode .exact w

/-- R91 to R93, for a Cycle whose fetch succeeds, with the timer step of R94 and R95. The tone as a part of the state is log
entry 6. -/
def Obligations.StepRunsTheDecodedInstruction : Prop :=
  ∀ (s : State) (w : Word), s.fault = none → fetch s = .ok w →
    (∀ u, exec (decode s.cfg.decodeMode w) { s with tone := false, ir := w, pc := s.pc + 2 } = .next u →
      (u.fault = none → ∃ t, t = tickTimers u ∧ step s = .next t ∧
        t.dt.toNat = u.dt.toNat - 1 ∧ t.st.toNat = u.st.toNat - 1 ∧ (t.tone = true ↔ u.st = 1) ∧
        t.toneCount = u.toneCount + (if u.st = 1 then 1 else 0) ∧ Frame [.delay, .sound, .tone, .toneCount] [] u t) ∧
      (u.fault ≠ none → step s = .next u)) ∧
    (∀ r, exec (decode s.cfg.decodeMode w) { s with tone := false, ir := w, pc := s.pc + 2 } = .fault r →
      step s = .fault r)

/-- R54 and R90: the byte at the lower address is the high byte. R57: no alignment. R64: the wrap at 0xFFF. -/
def Obligations.FetchIsBigEndian : Prop :=
  ∀ s : State,
    (s.cfg.addrPolicy = .wrap ∨ s.pc.toNat + 1 ≤ 0xFFF →
      ∃ w, fetch s = .ok w ∧
        w.toNat = (s.mem.read (s.pc.toNat % 4096)).toNat * 256 + (s.mem.read ((s.pc.toNat + 1) % 4096)).toNat) ∧
    (s.cfg.addrPolicy = .fault → 0xFFF < s.pc.toNat + 1 → fetch s = .error .addressOutOfRange)

/-- R90: pc = a and word = none; R193: a fetch fault leaves PC unadvanced. -/
def Obligations.FetchFault : Prop :=
  ∀ (s : State) (k : FaultKind), s.fault = none → fetch s = .error k →
    ∃ t, step s = .next t ∧ t.fault = some ⟨k, s.pc, none⟩ ∧ t.tone = false ∧ Frame [.fault, .tone] [] s t

/-- R192 (decision D17). -/
def Obligations.HaltedCycleChangesNothing : Prop :=
  ∀ s : State, s.fault ≠ none →
    (∃ t, step s = .next t ∧ t.tone = false ∧ Frame [.tone] [] s t) ∧
    (∀ keys, ∃ t, runCycles keys s = .next t ∧ t.fault = s.fault ∧ Frame [.tone, .keypad] [] s t)

/-- R52 (decision D1); that truncating first gives the same is derived there. -/
def Obligations.PhysMapping : Prop :=
  ∀ a : Nat,
    phys .wrap a = .ok (a % 4096) ∧ phys .wrap (a % 65536) = phys .wrap a ∧
    (a < 4096 → phys .fault a = .ok a) ∧ (4096 ≤ a → phys .fault a = .error .addressOutOfRange)

/-- R94 and R95. -/
def Obligations.TimersCountCycles : Prop :=
  ∀ (i : Instr) (s t : State), Runs i s → step s = .next t → t.fault = none →
    t.dt.toNat = (delayBeforeTick i s).toNat - 1 ∧ t.st.toNat = (soundBeforeTick i s).toNat - 1 ∧
    (t.tone = true ↔ soundBeforeTick i s = 1) ∧
    t.toneCount = s.toneCount + (if soundBeforeTick i s = 1 then 1 else 0)

/-- The table of R97 (derived there), as pcAfter; its faulting rows are PreciseFaults. -/
def Obligations.PcMovement : Prop :=
  ∀ (i : Instr) (s t : State), Runs i s → step s = .next t → t.fault = none → t.pc = pcAfter i s s.pc

/-- R193 (decision D17). -/
def Obligations.PreciseFaults : Prop :=
  ∀ (s t : State) (f : FaultRecord), s.fault = none → step s = .next t → t.fault = some f →
    (f.word = none ∧ fetch s = .error f.kind ∧ f.pc = s.pc ∧ t.tone = false ∧ Frame [.fault, .tone] [] s t) ∨
    (∃ w, fetch s = .ok w ∧ f.word = some w ∧ f.pc = s.pc ∧ t.ir = w ∧ t.pc = s.pc + 2 ∧ t.tone = false ∧
      Frame [.fault, .tone, .pc, .ir] [] s t)

/-- R191 (derived there). The premise on SP is Inv's (InvKept). -/
def Obligations.DefaultFaults : Prop :=
  ∀ s : State, s.fault = none → s.sp.toNat ≤ 16 → s.cfg.addrPolicy = .wrap → s.cfg.unmappedPolicy = .noOp →
    s.cfg.drawEdge = .linear →
    ∃ w t, fetch s = .ok w ∧ step s = .next t ∧
      (t.fault ≠ none ↔ DefaultFault (decode s.cfg.decodeMode w) s)

/-- R27: SP takes only the values 0-16; R190 to R193. The canonical memory is the model's representation (log entry 8); that no Cycle stops is log entry 5. -/
def Obligations.InvKept : Prop :=
  ∀ s : State, Inv s → ∃ t, step s = .next t ∧ Inv t

/-- R41. -/
def Obligations.InvAtReset : Prop :=
  Inv State.reset

/-- R41, with the default FONT of R36 written out from its table (log entry 9). Another FONT is ConstructState. -/
def Obligations.ResetState : Prop :=
  (∀ a, a < 0x50 → State.reset.mem.read a = 0) ∧
  glyph State.reset.mem 0x0 = [0xF0, 0x90, 0x90, 0x90, 0xF0] ∧ glyph State.reset.mem 0x1 = [0x20, 0x60, 0x20, 0x20, 0x70] ∧
  glyph State.reset.mem 0x2 = [0xF0, 0x10, 0xF0, 0x80, 0xF0] ∧ glyph State.reset.mem 0x3 = [0xF0, 0x10, 0xF0, 0x10, 0xF0] ∧
  glyph State.reset.mem 0x4 = [0x90, 0x90, 0xF0, 0x10, 0x10] ∧ glyph State.reset.mem 0x5 = [0xF0, 0x80, 0xF0, 0x10, 0xF0] ∧
  glyph State.reset.mem 0x6 = [0xF0, 0x80, 0xF0, 0x90, 0xF0] ∧ glyph State.reset.mem 0x7 = [0xF0, 0x10, 0x20, 0x40, 0x40] ∧
  glyph State.reset.mem 0x8 = [0xF0, 0x90, 0xF0, 0x90, 0xF0] ∧ glyph State.reset.mem 0x9 = [0xF0, 0x90, 0xF0, 0x10, 0xF0] ∧
  glyph State.reset.mem 0xA = [0xF0, 0x90, 0xF0, 0x90, 0x90] ∧ glyph State.reset.mem 0xB = [0xE0, 0x90, 0xE0, 0x90, 0xE0] ∧
  glyph State.reset.mem 0xC = [0xF0, 0x80, 0x80, 0x80, 0xF0] ∧ glyph State.reset.mem 0xD = [0xE0, 0x90, 0x90, 0x90, 0xE0] ∧
  glyph State.reset.mem 0xE = [0xF0, 0x80, 0xF0, 0x80, 0xF0] ∧ glyph State.reset.mem 0xF = [0xF0, 0x80, 0xF0, 0x80, 0x80] ∧
  (∀ a, 0xA0 ≤ a → State.reset.mem.read a = 0) ∧
  (∀ x, State.reset.reg x = 0) ∧ State.reset.i = 0 ∧ State.reset.pc = 0x0200#16 ∧ State.reset.sp = 0 ∧
  (∀ k : Ix16, State.reset.stack[k] = 0) ∧ State.reset.dt = 0 ∧ State.reset.st = 0 ∧
  (∀ l, pixel State.reset.disp l = false) ∧ (∀ k : Ix16, State.reset.key[k] = false) ∧
  State.reset.ir = 0 ∧ State.reset.fault = none ∧ State.reset.toneCount = 0

/-- R224 (derived there) and R222 (1) (decision D19). -/
def Obligations.LaunchState : Prop :=
  ∀ (s : State) (rom : List Byte),
    State.launch rom = State.reset.loadRom rom ∧
    (rom.length ≤ 3584 → ∃ t, s.loadRom rom = some t ∧
      (∀ k b, rom[k]? = some b → t.mem.read (0x200 + k) = b) ∧
      (∀ a, a < 0x200 ∨ 0x200 + rom.length ≤ a → t.mem.read a = s.mem.read a) ∧
      Frame [.memory] [] s t) ∧
    (3584 < rom.length → s.loadRom rom = none)

/-- The writers of each part, collected in partsWritten: I R24; PC R25 (and R97's table); stack R26; SP R27; DT R28; ST R29; display
R32; keypad R34; IR R35; tone and toneCount R37 (and R95); memory R55; the fault record R190 (and R40). The model's own
choices: that no instruction writes cfg (log entry 1), that only RND writes draws (log entry 3), and that tone is a part of
the state (log entry 6). -/
def Obligations.OnlyNamedWriters : Prop :=
  ∀ (i : Instr) (s t : State), exec i s = .next t → ∀ p, p ∉ partsWritten i → SamePart p s t

/-- R22's writes column (derived there), as regsWritten; R21 for VF. -/
def Obligations.RegistersWritten : Prop :=
  ∀ (i : Instr) (s t : State), exec i s = .next t → ∀ r, r ∉ regsWritten s.cfg i → t.reg r = s.reg r

/-- R29: no instruction reads ST (derived there); R37: no instruction reads toneCount. -/
def Obligations.SoundAndToneAreNotRead : Prop :=
  ∀ (i : Instr) (s t : State) (st : Byte) (tone : Bool) (n : Nat), (∀ x, i ≠ .ldStVx x) → exec i s = .next t →
    exec i { s with st := st, tone := tone, toneCount := n } = .next { t with st := st, tone := tone, toneCount := n }

/-- R23 (derived there). -/
def Obligations.FlagValues : Prop :=
  ∀ (x y n : Ix16) (s t : State),
    (x ≠ vf → exec (.addReg x y) s = .next t ∨ exec (.sub x y) s = .next t ∨ exec (.shr x y) s = .next t →
      t.reg vf = 0 ∨ t.reg vf = 1) ∧
    ((s.cfg.subnDest = .vy → y ≠ vf) → (s.cfg.subnDest = .vx → x ≠ vf) → exec (.subn x y) s = .next t →
      t.reg vf = 0 ∨ t.reg vf = 1) ∧
    (exec (.drw x y n) s = .next t → t.fault = none → t.reg vf = 0 ∨ t.reg vf = 1) ∧
    (x ≠ vf → s.cfg.shlFlag = .normalized → exec (.shl x y) s = .next t → t.reg vf = 0 ∨ t.reg vf = 1) ∧
    (x ≠ vf → s.cfg.shlFlag = .raw → exec (.shl x y) s = .next t → t.reg vf = 0 ∨ t.reg vf = 0x80#8)

/-- R102. -/
def Obligations.JumpResult : Prop :=
  ∀ (m : DecodeMode) (nnn : Addr12) (s : State),
    decode m (fmtA 0x1#4 nnn) = .jp nnn ∧
    ∃ t, exec (.jp nnn) s = .next t ∧ t.pc.toNat = nnn.toNat ∧ Frame [.pc] [] s t

/-- R108. -/
def Obligations.JumpOffsetResult : Prop :=
  ∀ (m : DecodeMode) (nnn : Addr12) (s : State),
    decode m (fmtA 0xB#4 nnn) = .jpV0 nnn ∧
    ∃ t, exec (.jpV0 nnn) s = .next t ∧ t.pc.toNat = (s.reg 0).toNat + nnn.toNat ∧ Frame [.pc] [] s t

/-- R103 (decision D4). SP above 16 is in no state of Inv (InvKept); there the model stops (log entry 5). -/
def Obligations.CallResult : Prop :=
  ∀ (m : DecodeMode) (nnn : Addr12) (s : State),
    decode m (fmtA 0x2#4 nnn) = .call nnn ∧
    (∀ k : Ix16, s.sp.toNat = k.val → ∃ t, exec (.call nnn) s = .next t ∧
      t.stack[k] = s.pc ∧ (∀ j : Ix16, j ≠ k → t.stack[j] = s.stack[j]) ∧ t.sp.toNat = k.val + 1 ∧
      t.pc.toNat = nnn.toNat ∧ Frame [.pc, .sp, .stack] [] s t) ∧
    (s.sp = 16 → ∃ t, exec (.call nnn) s = .next t ∧ RaisesOnly .stackOverflow s t)

/-- R101 (decision D4, C11). SP above 16 is in no state of Inv (InvKept); there the model stops (log entry 5). -/
def Obligations.ReturnResult : Prop :=
  (∀ m : DecodeMode, decode m 0x00EE#16 = .ret) ∧
  (∀ nn : Byte, decode .keyed (fmtXYN 0x0#4 (nn.extractLsb' 4 4) (nn.extractLsb' 0 4) 0xE#4) = .ret) ∧
  ∀ s : State,
    (∀ k : Ix16, s.sp.toNat = k.val + 1 → ∃ t, exec .ret s = .next t ∧
      t.sp.toNat = k.val ∧ t.pc = s.stack[k] ∧ Frame [.pc, .sp] [] s t) ∧
    (s.sp = 0 → ∃ t, exec .ret s = .next t ∧ RaisesOnly .stackUnderflow s t)

/-- R110 (derived there). -/
def Obligations.CallReturnRoundTrip : Prop :=
  ∀ (nnn : Addr12) (s : State) (k : Ix16), s.sp.toNat = k.val →
    ∃ t, exec (.call nnn) s = .next t ∧
      ∀ u : State, u.sp = t.sp → u.stack[k] = t.stack[k] →
        ∃ v, exec .ret u = .next v ∧ v.pc = s.pc ∧ v.sp = s.sp

/-- R104 and R105, with the skip of R100. -/
def Obligations.SkipOnImmediate : Prop :=
  ∀ (m : DecodeMode) (x : Ix16) (nn : Byte) (s : State),
    decode m (fmtXI 0x3#4 (nib x) nn) = .seImm x nn ∧ decode m (fmtXI 0x4#4 (nib x) nn) = .sneImm x nn ∧
    (∃ t, exec (.seImm x nn) s = .next t ∧ t.pc = (if s.reg x = nn then s.pc + 2 else s.pc) ∧ Frame [.pc] [] s t) ∧
    (∃ t, exec (.sneImm x nn) s = .next t ∧ t.pc = (if s.reg x = nn then s.pc else s.pc + 2) ∧ Frame [.pc] [] s t)

/-- R106 and R107, with the skip of R100. -/
def Obligations.SkipOnRegisters : Prop :=
  ∀ (m : DecodeMode) (x y : Ix16) (k : Nibble) (s : State),
    decode m (fmtXYN 0x5#4 (nib x) (nib y) 0x0#4) = .seReg x y ∧
    decode .keyed (fmtXYN 0x5#4 (nib x) (nib y) k) = .seReg x y ∧
    decode m (fmtXYN 0x9#4 (nib x) (nib y) 0x0#4) = .sneReg x y ∧
    decode .keyed (fmtXYN 0x9#4 (nib x) (nib y) k) = .sneReg x y ∧
    (∃ t, exec (.seReg x y) s = .next t ∧ t.pc = (if s.reg x = s.reg y then s.pc + 2 else s.pc) ∧ Frame [.pc] [] s t) ∧
    (∃ t, exec (.sneReg x y) s = .next t ∧ t.pc = (if s.reg x = s.reg y then s.pc else s.pc + 2) ∧ Frame [.pc] [] s t)

/-- R116 and R80 (decision D6). Which words it takes is DecodeSelectsTheTableRow and TableRowDecides. -/
def Obligations.NopResult : Prop :=
  ∀ (w : Word) (s : State),
    (s.cfg.unmappedPolicy = .noOp → ∃ t, exec (.nop w) s = .next t ∧ Frame [] [] s t) ∧
    (s.cfg.unmappedPolicy = .fault → ∃ t, exec (.nop w) s = .next t ∧ RaisesOnly .unmappedOpcode s t)

/-- R122 and R124. -/
def Obligations.LoadResults : Prop :=
  ∀ (m : DecodeMode) (x y : Ix16) (nn : Byte) (s : State),
    decode m (fmtXI 0x6#4 (nib x) nn) = .ldImm x nn ∧ decode m (fmtXYN 0x8#4 (nib x) (nib y) 0x0#4) = .ldReg x y ∧
    (∃ t, exec (.ldImm x nn) s = .next t ∧ t.reg x = nn ∧ Frame [] [x] s t) ∧
    (∃ t, exec (.ldReg x y) s = .next t ∧ t.reg x = s.reg y ∧ Frame [] [x] s t)

/-- R123. -/
def Obligations.AddImmediateResult : Prop :=
  ∀ (m : DecodeMode) (x : Ix16) (nn : Byte) (s : State),
    decode m (fmtXI 0x7#4 (nib x) nn) = .addImm x nn ∧
    ∃ t, exec (.addImm x nn) s = .next t ∧ (t.reg x).toNat = ((s.reg x).toNat + nn.toNat) % 256 ∧ Frame [] [x] s t

/-- R125, R126 and R127. -/
def Obligations.LogicResults : Prop :=
  ∀ (m : DecodeMode) (x y : Ix16) (s : State),
    decode m (fmtXYN 0x8#4 (nib x) (nib y) 0x1#4) = .orReg x y ∧
    decode m (fmtXYN 0x8#4 (nib x) (nib y) 0x2#4) = .andReg x y ∧
    decode m (fmtXYN 0x8#4 (nib x) (nib y) 0x3#4) = .xorReg x y ∧
    (∃ t, exec (.orReg x y) s = .next t ∧
      (∀ b, b < 8 → (t.reg x).getLsbD b = ((s.reg x).getLsbD b || (s.reg y).getLsbD b)) ∧ Frame [] [x] s t) ∧
    (∃ t, exec (.andReg x y) s = .next t ∧
      (∀ b, b < 8 → (t.reg x).getLsbD b = ((s.reg x).getLsbD b && (s.reg y).getLsbD b)) ∧ Frame [] [x] s t) ∧
    (∃ t, exec (.xorReg x y) s = .next t ∧
      (∀ b, b < 8 → (t.reg x).getLsbD b = ((s.reg x).getLsbD b ^^ (s.reg y).getLsbD b)) ∧ Frame [] [x] s t)

/-- R128, with R121's order (decision D8). -/
def Obligations.AddResult : Prop :=
  ∀ (m : DecodeMode) (x y : Ix16) (s : State),
    decode m (fmtXYN 0x8#4 (nib x) (nib y) 0x4#4) = .addReg x y ∧
    ∃ t, exec (.addReg x y) s = .next t ∧
      ResultFlag x (((s.reg x).toNat + (s.reg y).toNat) % 256)
        (if (s.reg x).toNat + (s.reg y).toNat > 255 then 1 else 0) s t

/-- R129, with R121's order (decision D8). -/
def Obligations.SubResult : Prop :=
  ∀ (m : DecodeMode) (x y : Ix16) (s : State),
    decode m (fmtXYN 0x8#4 (nib x) (nib y) 0x5#4) = .sub x y ∧
    ∃ t, exec (.sub x y) s = .next t ∧
      ResultFlag x (((s.reg x).toNat + 256 - (s.reg y).toNat) % 256)
        (if (s.reg x).toNat < (s.reg y).toNat then 0 else 1) s t

/-- R130, with R121's order (decision D8). -/
def Obligations.ShiftRightResult : Prop :=
  ∀ (m : DecodeMode) (x y : Ix16) (s : State),
    decode m (fmtXYN 0x8#4 (nib x) (nib y) 0x6#4) = .shr x y ∧
    ∃ t, exec (.shr x y) s = .next t ∧
      ResultFlag x ((s.reg x).toNat / 2) (if (s.reg x).toNat % 2 = 1 then 1 else 0) s t

/-- R131 (decision D9), with R121's order (decision D8). -/
def Obligations.SubnResult : Prop :=
  ∀ (m : DecodeMode) (x y : Ix16) (s : State),
    decode m (fmtXYN 0x8#4 (nib x) (nib y) 0x7#4) = .subn x y ∧
    ∃ t, exec (.subn x y) s = .next t ∧
      (s.cfg.subnDest = .vy → ResultFlag y (((s.reg y).toNat + 256 - (s.reg x).toNat) % 256)
        (if (s.reg y).toNat < (s.reg x).toNat then 0 else 1) s t) ∧
      (s.cfg.subnDest = .vx → ResultFlag x (((s.reg y).toNat + 256 - (s.reg x).toNat) % 256)
        (if (s.reg y).toNat < (s.reg x).toNat then 0 else 1) s t)

/-- R132 (decision D10), with R121's order (decision D8). -/
def Obligations.ShiftLeftResult : Prop :=
  ∀ (m : DecodeMode) (x y : Ix16) (s : State),
    decode m (fmtXYN 0x8#4 (nib x) (nib y) 0xE#4) = .shl x y ∧
    ∃ t, exec (.shl x y) s = .next t ∧
      (s.cfg.shlFlag = .raw → ResultFlag x ((s.reg x).toNat * 2 % 256)
        (if 128 ≤ (s.reg x).toNat then 0x80#8 else 0) s t) ∧
      (s.cfg.shlFlag = .normalized → ResultFlag x ((s.reg x).toNat * 2 % 256)
        (if 128 ≤ (s.reg x).toNat then 1 else 0) s t)

/-- R133. That the draw is an unknown byte per draw is the model's form of R14's free input (log entry 3). -/
def Obligations.RandomResult : Prop :=
  ∀ (m : DecodeMode) (x : Ix16) (nn : Byte) (s : State),
    decode m (fmtXI 0xC#4 (nib x) nn) = .rnd x nn ∧
    ∃ t, exec (.rnd x nn) s = .next t ∧ t.reg x = Config.randByte s.draws &&& nn ∧ (nn = 0 → t.reg x = 0) ∧
      t.draws = s.draws + 1 ∧ Frame [.draws] [x] s t

/-- R140. -/
def Obligations.LoadIndexResult : Prop :=
  ∀ (m : DecodeMode) (nnn : Addr12) (s : State),
    decode m (fmtA 0xA#4 nnn) = .ldI nnn ∧
    ∃ t, exec (.ldI nnn) s = .next t ∧ t.i.toNat = nnn.toNat ∧ Frame [.index] [] s t

/-- R141 (decision D2; that VF is not written is derived there). -/
def Obligations.AddIndexResult : Prop :=
  ∀ (m : DecodeMode) (x : Ix16) (s : State),
    decode m (fmtXI 0xF#4 (nib x) 0x1E#8) = .addI x ∧
    ∃ t, exec (.addI x) s = .next t ∧ t.i.toNat = (s.i.toNat + (s.reg x).toNat) % 65536 ∧ Frame [.index] [] s t

/-- R142 (decision D12). -/
def Obligations.FontAddressResult : Prop :=
  ∀ (m : DecodeMode) (x : Ix16) (s : State),
    decode m (fmtXI 0xF#4 (nib x) 0x29#8) = .ldF x ∧
    ∃ t, exec (.ldF x) s = .next t ∧ t.i.toNat = 0x050 + 5 * (s.reg x).toNat ∧ Frame [.index] [] s t

/-- R143 (decision D11; the tens digit's place is derived there). -/
def Obligations.BcdResult : Prop :=
  ∀ (m : DecodeMode) (x : Ix16) (s : State),
    decode m (fmtXI 0xF#4 (nib x) 0x33#8) = .ldB x ∧
    (AddrsOk s 2 → ∃ t, exec (.ldB x) s = .next t ∧
      (∀ a, phys s.cfg.addrPolicy (indexAddr s 1) = .ok a → (t.mem.read a).toNat = (s.reg x).toNat / 10 % 10) ∧
      (∀ a, phys s.cfg.addrPolicy (indexAddr s 2) = .ok a → (t.mem.read a).toNat =
        if s.cfg.bcdMode = .defect then (s.reg x).toNat / 100 else (s.reg x).toNat % 10) ∧
      (∀ a, phys s.cfg.addrPolicy (indexAddr s 0) = .ok a →
        (s.cfg.bcdMode = .fixed → (t.mem.read a).toNat = (s.reg x).toNat / 100) ∧
        (s.cfg.bcdMode = .defect → t.mem.read a = s.mem.read a)) ∧
      (∀ a, (∀ k, k ≤ 2 → phys s.cfg.addrPolicy (indexAddr s k) ≠ .ok a) → t.mem.read a = s.mem.read a) ∧
      Frame [.memory] [] s t) ∧
    (¬ AddrsOk s 2 → ∃ t, exec (.ldB x) s = .next t ∧ RaisesOnly .addressOutOfRange s t)

/-- R144 (decision D16), with the precise fault of R193. -/
def Obligations.StoreRegistersResult : Prop :=
  ∀ (m : DecodeMode) (x : Ix16) (s : State),
    decode m (fmtXI 0xF#4 (nib x) 0x55#8) = .ldMemVx x ∧
    (AddrsOk s x.val → ∃ t, exec (.ldMemVx x) s = .next t ∧
      (∀ k : Ix16, k ≤ x → ∃ a, phys s.cfg.addrPolicy (indexAddr s k.val) = .ok a ∧ t.mem.read a = s.reg k) ∧
      (∀ a, (∀ k : Ix16, k ≤ x → phys s.cfg.addrPolicy (indexAddr s k.val) ≠ .ok a) → t.mem.read a = s.mem.read a) ∧
      Frame [.memory] [] s t) ∧
    (¬ AddrsOk s x.val → ∃ t, exec (.ldMemVx x) s = .next t ∧ RaisesOnly .addressOutOfRange s t)

/-- R145 (decision D16), with the precise fault of R193. -/
def Obligations.LoadRegistersResult : Prop :=
  ∀ (m : DecodeMode) (x : Ix16) (s : State),
    decode m (fmtXI 0xF#4 (nib x) 0x65#8) = .ldVxMem x ∧
    (AddrsOk s x.val → ∃ t, exec (.ldVxMem x) s = .next t ∧
      (∀ k : Ix16, k ≤ x → ∃ a, phys s.cfg.addrPolicy (indexAddr s k.val) = .ok a ∧ t.reg k = s.mem.read a) ∧
      Frame [] (ixUpTo x) s t) ∧
    (¬ AddrsOk s x.val → ∃ t, exec (.ldVxMem x) s = .next t ∧ RaisesOnly .addressOutOfRange s t)

/-- R62 and R226 (decision D22): a store is seen by the fetch of the next and every later Cycle. -/
def Obligations.StoredWordIsFetched : Prop :=
  ∀ (x k j : Ix16) (s t u : State), j.val = k.val + 1 → j ≤ x → s.fault = none → exec (.ldMemVx x) s = .next t →
    t.fault = none → s.i.toNat + j.val < 65536 →
    u.mem = t.mem → u.cfg = t.cfg → u.pc.toNat = s.i.toNat + k.val → fetch u = .ok (s.reg k ++ s.reg j)

/-- R160. That no host-visible clearing happens elsewhere is OnlyNamedWriters. -/
def Obligations.ClearResult : Prop :=
  (∀ m : DecodeMode, decode m 0x00E0#16 = .cls) ∧
  (∀ nn : Byte, decode .keyed (fmtXYN 0x0#4 (nn.extractLsb' 4 4) (nn.extractLsb' 0 4) 0x0#4) = .cls) ∧
  ∀ s : State, ∃ t, exec .cls s = .next t ∧ (∀ l, pixel t.disp l = false) ∧ Frame [.display] [] s t

/-- R161 (decisions D14, D15, D17). The bit order is R161 (8)'s (log entry 15). -/
def Obligations.DrawResult : Prop :=
  ∀ (m : DecodeMode) (x y n : Ix16) (s : State),
    decode m (fmtXYN 0xD#4 (nib x) (nib y) (nib n)) = .drw x y n ∧
    (SpriteOk s n → ¬ OffEdge s x y n → ∃ t, exec (.drw x y n) s = .next t ∧
      (∀ l, Covers s x y n l → pixel t.disp l = !pixel s.disp l) ∧
      (∀ l, ¬ Covers s x y n l → pixel t.disp l = pixel s.disp l) ∧
      ((∃ l, Covers s x y n l ∧ pixel s.disp l = true) → t.reg vf = 1) ∧
      ((¬ ∃ l, Covers s x y n l ∧ pixel s.disp l = true) → t.reg vf = 0) ∧
      Frame [.display] [vf] s t) ∧
    (¬ SpriteOk s n → ∃ t, exec (.drw x y n) s = .next t ∧ RaisesOnly .addressOutOfRange s t) ∧
    (SpriteOk s n → OffEdge s x y n → ∃ t, exec (.drw x y n) s = .next t ∧ RaisesOnly .drawOutOfBounds s t)

/-- R162 (derived there). -/
def Obligations.DrawTwiceRestores : Prop :=
  ∀ (x y n : Ix16) (s t u : State), exec (.drw x y n) s = .next t → t.fault = none →
    u.disp = t.disp → u.mem = s.mem → u.i = s.i → u.cfg = s.cfg → u.reg x = s.reg x → u.reg y = s.reg y →
    ∃ v, exec (.drw x y n) u = .next v ∧ v.disp = s.disp ∧ v.fault = u.fault ∧
      (v.reg vf = 1 ↔ ∃ l, Covers s x y n l ∧ pixel s.disp l = false)

/-- R170, R171 and R173 (decision D13). -/
def Obligations.SkipOnKey : Prop :=
  ∀ (m : DecodeMode) (x : Ix16) (h : Nibble) (s : State),
    decode m (fmtXI 0xE#4 (nib x) 0x9E#8) = .skp x ∧ decode m (fmtXI 0xE#4 (nib x) 0xA1#8) = .sknp x ∧
    decode .keyed (fmtXYN 0xE#4 (nib x) h 0xE#4) = .skp x ∧ decode .keyed (fmtXYN 0xE#4 (nib x) h 0x1#4) = .sknp x ∧
    (∀ k : Ix16, (s.reg x).toNat = k.val →
      (∃ t, exec (.skp x) s = .next t ∧ t.pc = (if s.key[k] = true then s.pc + 2 else s.pc) ∧ Frame [.pc] [] s t) ∧
      (∃ t, exec (.sknp x) s = .next t ∧ t.pc = (if s.key[k] = true then s.pc else s.pc + 2) ∧ Frame [.pc] [] s t)) ∧
    ((s.reg x).toNat > 15 →
      (∃ t, exec (.skp x) s = .next t ∧ RaisesOnly .keyIndexOutOfRange s t) ∧
      (∃ t, exec (.sknp x) s = .next t ∧ RaisesOnly .keyIndexOutOfRange s t))

/-- R172. -/
def Obligations.WaitKeyResult : Prop :=
  ∀ (m : DecodeMode) (x : Ix16) (s : State),
    decode m (fmtXI 0xF#4 (nib x) 0x0A#8) = .ldVxK x ∧
    (∀ k : Ix16, s.key[k] = true → (∀ j : Ix16, j < k → s.key[j] = false) →
      ∃ t, exec (.ldVxK x) s = .next t ∧ (t.reg x).toNat = k.val ∧ Frame [] [x] s t) ∧
    ((∀ k : Ix16, s.key[k] = false) → ∃ t, exec (.ldVxK x) s = .next t ∧ t.pc = s.pc - 2 ∧ Frame [.pc] [] s t) ∧
    (Runs (.ldVxK x) s → (∀ k : Ix16, s.key[k] = false) → ∃ t, step s = .next t ∧ t.pc = s.pc ∧ t.fault = none ∧
      t.dt.toNat = s.dt.toNat - 1 ∧ t.st.toNat = s.st.toNat - 1 ∧ (t.tone = true ↔ s.st = 1) ∧ t.reg x = s.reg x)

/-- R174. -/
def Obligations.ReadDelayResult : Prop :=
  ∀ (m : DecodeMode) (x : Ix16) (s : State),
    decode m (fmtXI 0xF#4 (nib x) 0x07#8) = .ldVxDt x ∧
    (∃ t, exec (.ldVxDt x) s = .next t ∧ t.reg x = s.dt ∧ Frame [] [x] s t) ∧
    (Runs (.ldVxDt x) s → ∃ t, step s = .next t ∧ t.reg x = s.dt ∧ t.dt.toNat = s.dt.toNat - 1)

/-- R175 and R176. -/
def Obligations.SetTimersResult : Prop :=
  ∀ (m : DecodeMode) (x : Ix16) (s : State),
    decode m (fmtXI 0xF#4 (nib x) 0x15#8) = .ldDtVx x ∧ decode m (fmtXI 0xF#4 (nib x) 0x18#8) = .ldStVx x ∧
    (∃ t, exec (.ldDtVx x) s = .next t ∧ t.dt = s.reg x ∧ Frame [.delay] [] s t) ∧
    (∃ t, exec (.ldStVx x) s = .next t ∧ t.st = s.reg x ∧ Frame [.sound] [] s t) ∧
    (Runs (.ldDtVx x) s → ∃ t, step s = .next t ∧ t.dt.toNat = (s.reg x).toNat - 1) ∧
    (Runs (.ldStVx x) s → ∃ t, step s = .next t ∧ t.st.toNat = (s.reg x).toNat - 1 ∧
      (t.tone = true ↔ s.reg x = 1))

/-- R221 (1) and (2), with FONT and the parameters those of R7 (decision D25); the rest is ResetState. The parameters as a field of
the state are log entry 1, the canonical memory in Inv log entry 8, and tone and draws, equal here to State.reset's, log
entries 6 and 3. -/
def Obligations.ConstructState : Prop :=
  ∀ (cfg : Config) (font : Vector Byte 80),
    (∀ (k : Nat) (h : k < 80), (State.construct cfg font).mem.read (0x050 + k) = font[k]) ∧
    (∀ a, a < 0x050 ∨ 0x0A0 ≤ a → (State.construct cfg font).mem.read a = 0) ∧
    (State.construct cfg font).cfg = cfg ∧
    Frame [.memory, .config] [] State.reset (State.construct cfg font) ∧ Inv (State.construct cfg font)
end

