-- ==== Sys2Proof/Laws/State.lean ====
section
/-!
SUPPORT. One lemma per field per named update of the state, true by unfolding, so that no later proof unfolds a record update.
-/

namespace Sys2Proof.Machine

@[simp] theorem State.setReg_v (s : State) (x : Ix16) (b : Byte) : (s.setReg x b).v = putReg s.v x b := rfl
@[simp] theorem State.setReg_i (s : State) (x : Ix16) (b : Byte) : (s.setReg x b).i = s.i := rfl
@[simp] theorem State.setReg_pc (s : State) (x : Ix16) (b : Byte) : (s.setReg x b).pc = s.pc := rfl
@[simp] theorem State.setReg_sp (s : State) (x : Ix16) (b : Byte) : (s.setReg x b).sp = s.sp := rfl
@[simp] theorem State.setReg_stack (s : State) (x : Ix16) (b : Byte) : (s.setReg x b).stack = s.stack := rfl
@[simp] theorem State.setReg_dt (s : State) (x : Ix16) (b : Byte) : (s.setReg x b).dt = s.dt := rfl
@[simp] theorem State.setReg_st (s : State) (x : Ix16) (b : Byte) : (s.setReg x b).st = s.st := rfl
@[simp] theorem State.setReg_mem (s : State) (x : Ix16) (b : Byte) : (s.setReg x b).mem = s.mem := rfl
@[simp] theorem State.setReg_disp (s : State) (x : Ix16) (b : Byte) : (s.setReg x b).disp = s.disp := rfl
@[simp] theorem State.setReg_key (s : State) (x : Ix16) (b : Byte) : (s.setReg x b).key = s.key := rfl
@[simp] theorem State.setReg_ir (s : State) (x : Ix16) (b : Byte) : (s.setReg x b).ir = s.ir := rfl
@[simp] theorem State.setReg_fault (s : State) (x : Ix16) (b : Byte) : (s.setReg x b).fault = s.fault := rfl
@[simp] theorem State.setReg_tone (s : State) (x : Ix16) (b : Byte) : (s.setReg x b).tone = s.tone := rfl
@[simp] theorem State.setReg_toneCount (s : State) (x : Ix16) (b : Byte) : (s.setReg x b).toneCount = s.toneCount := rfl
@[simp] theorem State.setReg_draws (s : State) (x : Ix16) (b : Byte) : (s.setReg x b).draws = s.draws := rfl
@[simp] theorem State.setReg_cfg (s : State) (x : Ix16) (b : Byte) : (s.setReg x b).cfg = s.cfg := rfl

@[simp] theorem State.skip_v (s : State) : (s.skip).v = s.v := rfl
@[simp] theorem State.skip_i (s : State) : (s.skip).i = s.i := rfl
@[simp] theorem State.skip_pc (s : State) : (s.skip).pc = s.pc + 2 := rfl
@[simp] theorem State.skip_sp (s : State) : (s.skip).sp = s.sp := rfl
@[simp] theorem State.skip_stack (s : State) : (s.skip).stack = s.stack := rfl
@[simp] theorem State.skip_dt (s : State) : (s.skip).dt = s.dt := rfl
@[simp] theorem State.skip_st (s : State) : (s.skip).st = s.st := rfl
@[simp] theorem State.skip_mem (s : State) : (s.skip).mem = s.mem := rfl
@[simp] theorem State.skip_disp (s : State) : (s.skip).disp = s.disp := rfl
@[simp] theorem State.skip_key (s : State) : (s.skip).key = s.key := rfl
@[simp] theorem State.skip_ir (s : State) : (s.skip).ir = s.ir := rfl
@[simp] theorem State.skip_fault (s : State) : (s.skip).fault = s.fault := rfl
@[simp] theorem State.skip_tone (s : State) : (s.skip).tone = s.tone := rfl
@[simp] theorem State.skip_toneCount (s : State) : (s.skip).toneCount = s.toneCount := rfl
@[simp] theorem State.skip_draws (s : State) : (s.skip).draws = s.draws := rfl
@[simp] theorem State.skip_cfg (s : State) : (s.skip).cfg = s.cfg := rfl

@[simp] theorem State.push_v (s : State) (k : Ix16) (w : Word) : (s.push k w).v = s.v := rfl
@[simp] theorem State.push_i (s : State) (k : Ix16) (w : Word) : (s.push k w).i = s.i := rfl
@[simp] theorem State.push_pc (s : State) (k : Ix16) (w : Word) : (s.push k w).pc = s.pc := rfl
@[simp] theorem State.push_sp (s : State) (k : Ix16) (w : Word) : (s.push k w).sp = s.sp + 1 := rfl
@[simp] theorem State.push_stack (s : State) (k : Ix16) (w : Word) : (s.push k w).stack = s.stack.set k.val w k.isLt := rfl
@[simp] theorem State.push_dt (s : State) (k : Ix16) (w : Word) : (s.push k w).dt = s.dt := rfl
@[simp] theorem State.push_st (s : State) (k : Ix16) (w : Word) : (s.push k w).st = s.st := rfl
@[simp] theorem State.push_mem (s : State) (k : Ix16) (w : Word) : (s.push k w).mem = s.mem := rfl
@[simp] theorem State.push_disp (s : State) (k : Ix16) (w : Word) : (s.push k w).disp = s.disp := rfl
@[simp] theorem State.push_key (s : State) (k : Ix16) (w : Word) : (s.push k w).key = s.key := rfl
@[simp] theorem State.push_ir (s : State) (k : Ix16) (w : Word) : (s.push k w).ir = s.ir := rfl
@[simp] theorem State.push_fault (s : State) (k : Ix16) (w : Word) : (s.push k w).fault = s.fault := rfl
@[simp] theorem State.push_tone (s : State) (k : Ix16) (w : Word) : (s.push k w).tone = s.tone := rfl
@[simp] theorem State.push_toneCount (s : State) (k : Ix16) (w : Word) : (s.push k w).toneCount = s.toneCount := rfl
@[simp] theorem State.push_draws (s : State) (k : Ix16) (w : Word) : (s.push k w).draws = s.draws := rfl
@[simp] theorem State.push_cfg (s : State) (k : Ix16) (w : Word) : (s.push k w).cfg = s.cfg := rfl

@[simp] theorem State.writeRF_v (s : State) (d : Ix16) (result flag : Byte) : (s.writeRF d result flag).v = putResultFlag s.cfg.vfAliasOrder s.v d result flag := rfl
@[simp] theorem State.writeRF_i (s : State) (d : Ix16) (result flag : Byte) : (s.writeRF d result flag).i = s.i := rfl
@[simp] theorem State.writeRF_pc (s : State) (d : Ix16) (result flag : Byte) : (s.writeRF d result flag).pc = s.pc := rfl
@[simp] theorem State.writeRF_sp (s : State) (d : Ix16) (result flag : Byte) : (s.writeRF d result flag).sp = s.sp := rfl
@[simp] theorem State.writeRF_stack (s : State) (d : Ix16) (result flag : Byte) : (s.writeRF d result flag).stack = s.stack := rfl
@[simp] theorem State.writeRF_dt (s : State) (d : Ix16) (result flag : Byte) : (s.writeRF d result flag).dt = s.dt := rfl
@[simp] theorem State.writeRF_st (s : State) (d : Ix16) (result flag : Byte) : (s.writeRF d result flag).st = s.st := rfl
@[simp] theorem State.writeRF_mem (s : State) (d : Ix16) (result flag : Byte) : (s.writeRF d result flag).mem = s.mem := rfl
@[simp] theorem State.writeRF_disp (s : State) (d : Ix16) (result flag : Byte) : (s.writeRF d result flag).disp = s.disp := rfl
@[simp] theorem State.writeRF_key (s : State) (d : Ix16) (result flag : Byte) : (s.writeRF d result flag).key = s.key := rfl
@[simp] theorem State.writeRF_ir (s : State) (d : Ix16) (result flag : Byte) : (s.writeRF d result flag).ir = s.ir := rfl
@[simp] theorem State.writeRF_fault (s : State) (d : Ix16) (result flag : Byte) : (s.writeRF d result flag).fault = s.fault := rfl
@[simp] theorem State.writeRF_tone (s : State) (d : Ix16) (result flag : Byte) : (s.writeRF d result flag).tone = s.tone := rfl
@[simp] theorem State.writeRF_toneCount (s : State) (d : Ix16) (result flag : Byte) : (s.writeRF d result flag).toneCount = s.toneCount := rfl
@[simp] theorem State.writeRF_draws (s : State) (d : Ix16) (result flag : Byte) : (s.writeRF d result flag).draws = s.draws := rfl
@[simp] theorem State.writeRF_cfg (s : State) (d : Ix16) (result flag : Byte) : (s.writeRF d result flag).cfg = s.cfg := rfl

@[simp] theorem raise_v (k : FaultKind) (s : State) : (raise k s).v = s.v := rfl
@[simp] theorem raise_i (k : FaultKind) (s : State) : (raise k s).i = s.i := rfl
@[simp] theorem raise_pc (k : FaultKind) (s : State) : (raise k s).pc = s.pc := rfl
@[simp] theorem raise_sp (k : FaultKind) (s : State) : (raise k s).sp = s.sp := rfl
@[simp] theorem raise_stack (k : FaultKind) (s : State) : (raise k s).stack = s.stack := rfl
@[simp] theorem raise_dt (k : FaultKind) (s : State) : (raise k s).dt = s.dt := rfl
@[simp] theorem raise_st (k : FaultKind) (s : State) : (raise k s).st = s.st := rfl
@[simp] theorem raise_mem (k : FaultKind) (s : State) : (raise k s).mem = s.mem := rfl
@[simp] theorem raise_disp (k : FaultKind) (s : State) : (raise k s).disp = s.disp := rfl
@[simp] theorem raise_key (k : FaultKind) (s : State) : (raise k s).key = s.key := rfl
@[simp] theorem raise_ir (k : FaultKind) (s : State) : (raise k s).ir = s.ir := rfl
@[simp] theorem raise_fault (k : FaultKind) (s : State) : (raise k s).fault = some ⟨k, s.pc - 2, some s.ir⟩ := rfl
@[simp] theorem raise_tone (k : FaultKind) (s : State) : (raise k s).tone = s.tone := rfl
@[simp] theorem raise_toneCount (k : FaultKind) (s : State) : (raise k s).toneCount = s.toneCount := rfl
@[simp] theorem raise_draws (k : FaultKind) (s : State) : (raise k s).draws = s.draws := rfl
@[simp] theorem raise_cfg (k : FaultKind) (s : State) : (raise k s).cfg = s.cfg := rfl

@[simp] theorem rndWith_v (r : Byte) (x : Ix16) (nn : Byte) (s : State) : (rndWith r x nn s).v = putReg s.v x (r &&& nn) := rfl
@[simp] theorem rndWith_i (r : Byte) (x : Ix16) (nn : Byte) (s : State) : (rndWith r x nn s).i = s.i := rfl
@[simp] theorem rndWith_pc (r : Byte) (x : Ix16) (nn : Byte) (s : State) : (rndWith r x nn s).pc = s.pc := rfl
@[simp] theorem rndWith_sp (r : Byte) (x : Ix16) (nn : Byte) (s : State) : (rndWith r x nn s).sp = s.sp := rfl
@[simp] theorem rndWith_stack (r : Byte) (x : Ix16) (nn : Byte) (s : State) : (rndWith r x nn s).stack = s.stack := rfl
@[simp] theorem rndWith_dt (r : Byte) (x : Ix16) (nn : Byte) (s : State) : (rndWith r x nn s).dt = s.dt := rfl
@[simp] theorem rndWith_st (r : Byte) (x : Ix16) (nn : Byte) (s : State) : (rndWith r x nn s).st = s.st := rfl
@[simp] theorem rndWith_mem (r : Byte) (x : Ix16) (nn : Byte) (s : State) : (rndWith r x nn s).mem = s.mem := rfl
@[simp] theorem rndWith_disp (r : Byte) (x : Ix16) (nn : Byte) (s : State) : (rndWith r x nn s).disp = s.disp := rfl
@[simp] theorem rndWith_key (r : Byte) (x : Ix16) (nn : Byte) (s : State) : (rndWith r x nn s).key = s.key := rfl
@[simp] theorem rndWith_ir (r : Byte) (x : Ix16) (nn : Byte) (s : State) : (rndWith r x nn s).ir = s.ir := rfl
@[simp] theorem rndWith_fault (r : Byte) (x : Ix16) (nn : Byte) (s : State) : (rndWith r x nn s).fault = s.fault := rfl
@[simp] theorem rndWith_tone (r : Byte) (x : Ix16) (nn : Byte) (s : State) : (rndWith r x nn s).tone = s.tone := rfl
@[simp] theorem rndWith_toneCount (r : Byte) (x : Ix16) (nn : Byte) (s : State) : (rndWith r x nn s).toneCount = s.toneCount := rfl
@[simp] theorem rndWith_draws (r : Byte) (x : Ix16) (nn : Byte) (s : State) : (rndWith r x nn s).draws = s.draws + 1 := rfl
@[simp] theorem rndWith_cfg (r : Byte) (x : Ix16) (nn : Byte) (s : State) : (rndWith r x nn s).cfg = s.cfg := rfl

@[simp] theorem beginExecute_v (w : Word) (s : State) : (beginExecute w s).v = s.v := rfl
@[simp] theorem beginExecute_i (w : Word) (s : State) : (beginExecute w s).i = s.i := rfl
@[simp] theorem beginExecute_pc (w : Word) (s : State) : (beginExecute w s).pc = s.pc + 2 := rfl
@[simp] theorem beginExecute_sp (w : Word) (s : State) : (beginExecute w s).sp = s.sp := rfl
@[simp] theorem beginExecute_stack (w : Word) (s : State) : (beginExecute w s).stack = s.stack := rfl
@[simp] theorem beginExecute_dt (w : Word) (s : State) : (beginExecute w s).dt = s.dt := rfl
@[simp] theorem beginExecute_st (w : Word) (s : State) : (beginExecute w s).st = s.st := rfl
@[simp] theorem beginExecute_mem (w : Word) (s : State) : (beginExecute w s).mem = s.mem := rfl
@[simp] theorem beginExecute_disp (w : Word) (s : State) : (beginExecute w s).disp = s.disp := rfl
@[simp] theorem beginExecute_key (w : Word) (s : State) : (beginExecute w s).key = s.key := rfl
@[simp] theorem beginExecute_ir (w : Word) (s : State) : (beginExecute w s).ir = w := rfl
@[simp] theorem beginExecute_fault (w : Word) (s : State) : (beginExecute w s).fault = s.fault := rfl
@[simp] theorem beginExecute_tone (w : Word) (s : State) : (beginExecute w s).tone = false := rfl
@[simp] theorem beginExecute_toneCount (w : Word) (s : State) : (beginExecute w s).toneCount = s.toneCount := rfl
@[simp] theorem beginExecute_draws (w : Word) (s : State) : (beginExecute w s).draws = s.draws := rfl
@[simp] theorem beginExecute_cfg (w : Word) (s : State) : (beginExecute w s).cfg = s.cfg := rfl

@[simp] theorem raiseFetch_v (k : FaultKind) (s : State) : (raiseFetch k s).v = s.v := rfl
@[simp] theorem raiseFetch_i (k : FaultKind) (s : State) : (raiseFetch k s).i = s.i := rfl
@[simp] theorem raiseFetch_pc (k : FaultKind) (s : State) : (raiseFetch k s).pc = s.pc := rfl
@[simp] theorem raiseFetch_sp (k : FaultKind) (s : State) : (raiseFetch k s).sp = s.sp := rfl
@[simp] theorem raiseFetch_stack (k : FaultKind) (s : State) : (raiseFetch k s).stack = s.stack := rfl
@[simp] theorem raiseFetch_dt (k : FaultKind) (s : State) : (raiseFetch k s).dt = s.dt := rfl
@[simp] theorem raiseFetch_st (k : FaultKind) (s : State) : (raiseFetch k s).st = s.st := rfl
@[simp] theorem raiseFetch_mem (k : FaultKind) (s : State) : (raiseFetch k s).mem = s.mem := rfl
@[simp] theorem raiseFetch_disp (k : FaultKind) (s : State) : (raiseFetch k s).disp = s.disp := rfl
@[simp] theorem raiseFetch_key (k : FaultKind) (s : State) : (raiseFetch k s).key = s.key := rfl
@[simp] theorem raiseFetch_ir (k : FaultKind) (s : State) : (raiseFetch k s).ir = s.ir := rfl
@[simp] theorem raiseFetch_fault (k : FaultKind) (s : State) : (raiseFetch k s).fault = some ⟨k, s.pc, none⟩ := rfl
@[simp] theorem raiseFetch_tone (k : FaultKind) (s : State) : (raiseFetch k s).tone = false := rfl
@[simp] theorem raiseFetch_toneCount (k : FaultKind) (s : State) : (raiseFetch k s).toneCount = s.toneCount := rfl
@[simp] theorem raiseFetch_draws (k : FaultKind) (s : State) : (raiseFetch k s).draws = s.draws := rfl
@[simp] theorem raiseFetch_cfg (k : FaultKind) (s : State) : (raiseFetch k s).cfg = s.cfg := rfl

@[simp] theorem tickTimers_v (s : State) : (tickTimers s).v = s.v := rfl
@[simp] theorem tickTimers_i (s : State) : (tickTimers s).i = s.i := rfl
@[simp] theorem tickTimers_pc (s : State) : (tickTimers s).pc = s.pc := rfl
@[simp] theorem tickTimers_sp (s : State) : (tickTimers s).sp = s.sp := rfl
@[simp] theorem tickTimers_stack (s : State) : (tickTimers s).stack = s.stack := rfl
@[simp] theorem tickTimers_dt (s : State) : (tickTimers s).dt = countDown s.dt := rfl
@[simp] theorem tickTimers_st (s : State) : (tickTimers s).st = countDown s.st := rfl
@[simp] theorem tickTimers_mem (s : State) : (tickTimers s).mem = s.mem := rfl
@[simp] theorem tickTimers_disp (s : State) : (tickTimers s).disp = s.disp := rfl
@[simp] theorem tickTimers_key (s : State) : (tickTimers s).key = s.key := rfl
@[simp] theorem tickTimers_ir (s : State) : (tickTimers s).ir = s.ir := rfl
@[simp] theorem tickTimers_fault (s : State) : (tickTimers s).fault = s.fault := rfl
@[simp] theorem tickTimers_tone (s : State) : (tickTimers s).tone = decide (s.st = 1) := rfl
@[simp] theorem tickTimers_toneCount (s : State) : (tickTimers s).toneCount = if s.st = 1 then s.toneCount + 1 else s.toneCount := rfl
@[simp] theorem tickTimers_draws (s : State) : (tickTimers s).draws = s.draws := rfl
@[simp] theorem tickTimers_cfg (s : State) : (tickTimers s).cfg = s.cfg := rfl

@[simp] theorem haltedCycle_v (s : State) : (haltedCycle s).v = s.v := rfl
@[simp] theorem haltedCycle_i (s : State) : (haltedCycle s).i = s.i := rfl
@[simp] theorem haltedCycle_pc (s : State) : (haltedCycle s).pc = s.pc := rfl
@[simp] theorem haltedCycle_sp (s : State) : (haltedCycle s).sp = s.sp := rfl
@[simp] theorem haltedCycle_stack (s : State) : (haltedCycle s).stack = s.stack := rfl
@[simp] theorem haltedCycle_dt (s : State) : (haltedCycle s).dt = s.dt := rfl
@[simp] theorem haltedCycle_st (s : State) : (haltedCycle s).st = s.st := rfl
@[simp] theorem haltedCycle_mem (s : State) : (haltedCycle s).mem = s.mem := rfl
@[simp] theorem haltedCycle_disp (s : State) : (haltedCycle s).disp = s.disp := rfl
@[simp] theorem haltedCycle_key (s : State) : (haltedCycle s).key = s.key := rfl
@[simp] theorem haltedCycle_ir (s : State) : (haltedCycle s).ir = s.ir := rfl
@[simp] theorem haltedCycle_fault (s : State) : (haltedCycle s).fault = s.fault := rfl
@[simp] theorem haltedCycle_tone (s : State) : (haltedCycle s).tone = false := rfl
@[simp] theorem haltedCycle_toneCount (s : State) : (haltedCycle s).toneCount = s.toneCount := rfl
@[simp] theorem haltedCycle_draws (s : State) : (haltedCycle s).draws = s.draws := rfl
@[simp] theorem haltedCycle_cfg (s : State) : (haltedCycle s).cfg = s.cfg := rfl

@[simp] theorem State.setKeypad_v (s : State) (key : Vector Bool 16) : (s.setKeypad key).v = s.v := rfl
@[simp] theorem State.setKeypad_i (s : State) (key : Vector Bool 16) : (s.setKeypad key).i = s.i := rfl
@[simp] theorem State.setKeypad_pc (s : State) (key : Vector Bool 16) : (s.setKeypad key).pc = s.pc := rfl
@[simp] theorem State.setKeypad_sp (s : State) (key : Vector Bool 16) : (s.setKeypad key).sp = s.sp := rfl
@[simp] theorem State.setKeypad_stack (s : State) (key : Vector Bool 16) : (s.setKeypad key).stack = s.stack := rfl
@[simp] theorem State.setKeypad_dt (s : State) (key : Vector Bool 16) : (s.setKeypad key).dt = s.dt := rfl
@[simp] theorem State.setKeypad_st (s : State) (key : Vector Bool 16) : (s.setKeypad key).st = s.st := rfl
@[simp] theorem State.setKeypad_mem (s : State) (key : Vector Bool 16) : (s.setKeypad key).mem = s.mem := rfl
@[simp] theorem State.setKeypad_disp (s : State) (key : Vector Bool 16) : (s.setKeypad key).disp = s.disp := rfl
@[simp] theorem State.setKeypad_key (s : State) (key : Vector Bool 16) : (s.setKeypad key).key = key := rfl
@[simp] theorem State.setKeypad_ir (s : State) (key : Vector Bool 16) : (s.setKeypad key).ir = s.ir := rfl
@[simp] theorem State.setKeypad_fault (s : State) (key : Vector Bool 16) : (s.setKeypad key).fault = s.fault := rfl
@[simp] theorem State.setKeypad_tone (s : State) (key : Vector Bool 16) : (s.setKeypad key).tone = s.tone := rfl
@[simp] theorem State.setKeypad_toneCount (s : State) (key : Vector Bool 16) : (s.setKeypad key).toneCount = s.toneCount := rfl
@[simp] theorem State.setKeypad_draws (s : State) (key : Vector Bool 16) : (s.setKeypad key).draws = s.draws := rfl
@[simp] theorem State.setKeypad_cfg (s : State) (key : Vector Bool 16) : (s.setKeypad key).cfg = s.cfg := rfl

/-! ### drawCells -/

@[simp] theorem drawCells_i (s : State) (cells : List (Nat × Nat)) : (drawCells s cells).i = s.i := rfl
@[simp] theorem drawCells_pc (s : State) (cells : List (Nat × Nat)) : (drawCells s cells).pc = s.pc := rfl
@[simp] theorem drawCells_sp (s : State) (cells : List (Nat × Nat)) : (drawCells s cells).sp = s.sp := rfl
@[simp] theorem drawCells_stack (s : State) (cells : List (Nat × Nat)) : (drawCells s cells).stack = s.stack := rfl
@[simp] theorem drawCells_dt (s : State) (cells : List (Nat × Nat)) : (drawCells s cells).dt = s.dt := rfl
@[simp] theorem drawCells_st (s : State) (cells : List (Nat × Nat)) : (drawCells s cells).st = s.st := rfl
@[simp] theorem drawCells_mem (s : State) (cells : List (Nat × Nat)) : (drawCells s cells).mem = s.mem := rfl
@[simp] theorem drawCells_key (s : State) (cells : List (Nat × Nat)) : (drawCells s cells).key = s.key := rfl
@[simp] theorem drawCells_ir (s : State) (cells : List (Nat × Nat)) : (drawCells s cells).ir = s.ir := rfl
@[simp] theorem drawCells_fault (s : State) (cells : List (Nat × Nat)) : (drawCells s cells).fault = s.fault := rfl
@[simp] theorem drawCells_tone (s : State) (cells : List (Nat × Nat)) : (drawCells s cells).tone = s.tone := rfl
@[simp] theorem drawCells_toneCount (s : State) (cells : List (Nat × Nat)) : (drawCells s cells).toneCount = s.toneCount := rfl
@[simp] theorem drawCells_draws (s : State) (cells : List (Nat × Nat)) : (drawCells s cells).draws = s.draws := rfl
@[simp] theorem drawCells_cfg (s : State) (cells : List (Nat × Nat)) : (drawCells s cells).cfg = s.cfg := rfl

end Sys2Proof.Machine
end

