-- ==== Sys2Proof/Laws/Memory.lean ====
section
/-!
SUPPORT. The laws of memory: read after write, writes elsewhere, and that every operation keeps the canonical form (R53, R60;
log entry 8). They need no well-formedness.
-/

namespace Sys2Proof.Machine

theorem Memory.erase_cons (c : Host.Cell) (m : Memory) (a : Nat) :
    Memory.erase (c :: m) a = if c.1 = a then Memory.erase m a else c :: Memory.erase m a := by
  by_cases h : c.1 = a <;> simp [Memory.erase, h]

theorem Memory.read_erase_same (m : Memory) (a : Nat) : Memory.read (Memory.erase m a) a = Memory.blank a := by
  induction m with
  | nil => rfl
  | cons c rest ih =>
    rw [Memory.erase_cons]
    split
    · exact ih
    · next h => simp [Memory.read, h, ih]

theorem Memory.read_erase_other (m : Memory) {a b : Nat} (h : b ≠ a) :
    Memory.read (Memory.erase m a) b = Memory.read m b := by
  induction m with
  | nil => rfl
  | cons c rest ih =>
    rw [Memory.erase_cons]
    split
    · next hc => rw [ih, Memory.read, if_neg (by omega)]
    · simp only [Memory.read, ih]

theorem Memory.read_insert (c : Host.Cell) (m : Memory) (b : Nat) (h : ∀ d ∈ m, d.1 ≠ c.1) :
    Memory.read (Memory.insert c m) b = if c.1 = b then c.2 else Memory.read m b := by
  induction m with
  | nil => rfl
  | cons d rest ih =>
    simp only [List.mem_cons, forall_eq_or_imp] at h
    unfold Memory.insert
    split
    · rfl
    · simp only [Memory.read, ih h.2]
      by_cases h1 : d.1 = b <;> by_cases h2 : c.1 = b <;> simp_all

theorem Memory.erase_ne (m : Memory) (a : Nat) : ∀ d ∈ Memory.erase m a, d.1 ≠ a := by
  intro d hd; simpa using (List.mem_filter.1 hd).2

/-- A byte reads as the last value stored to it, and every other byte as before (R60). -/
theorem Memory.read_write (m : Memory) (a b : Nat) (v : Byte) :
    Memory.read (Memory.write m a v) b = if b = a then v else Memory.read m b := by
  unfold Memory.write
  by_cases hb : b = a
  · subst hb
    split
    · simp_all [Memory.read_erase_same]
    · rw [Memory.read_insert (b, v) _ _ (Memory.erase_ne m b)]; simp
  · split
    · rw [Memory.read_erase_other m hb]
    · rw [Memory.read_insert (a, v) _ _ (Memory.erase_ne m a), if_neg (Ne.symm hb), Memory.read_erase_other m hb]

theorem Memory.read_write_same (m : Memory) (a : Nat) (v : Byte) : Memory.read (Memory.write m a v) a = v := by
  simp [Memory.read_write]

theorem Memory.read_write_other (m : Memory) {a b : Nat} (v : Byte) (h : b ≠ a) :
    Memory.read (Memory.write m a v) b = Memory.read m b := by
  simp [Memory.read_write, h]

/-- Bytes no store of the list names read as before. -/
theorem Memory.read_writeAll_other (ws : List (Nat × Byte)) (m : Memory) (b : Nat) (h : ∀ w ∈ ws, w.1 ≠ b) :
    Memory.read (Memory.writeAll m ws) b = Memory.read m b := by
  induction ws generalizing m with
  | nil => rfl
  | cons w rest ih =>
    simp only [List.mem_cons, forall_eq_or_imp] at h
    show Memory.read (Memory.writeAll (Memory.write m w.1 w.2) rest) b = _
    rw [ih _ h.2, Memory.read_write_other m w.2 (Ne.symm h.1)]

/-- A byte stored once in the list reads as the value stored. -/
theorem Memory.read_writeAll_mem (ws : List (Nat × Byte)) (m : Memory) (b : Nat) (v : Byte)
    (nd : (ws.map Prod.fst).Nodup) (h : (b, v) ∈ ws) : Memory.read (Memory.writeAll m ws) b = v := by
  induction ws generalizing m with
  | nil => simp at h
  | cons w rest ih =>
    simp only [List.map_cons, List.nodup_cons, List.mem_map, not_exists, not_and] at nd
    show Memory.read (Memory.writeAll (Memory.write m w.1 w.2) rest) b = v
    rcases List.mem_cons.1 h with rfl | h
    · rw [Memory.read_writeAll_other _ _ _ (fun w hw e => nd.1 w hw e), Memory.read_write_same]
    · exact ih _ nd.2 h

/-! ### The canonical form -/

theorem Memory.wfFrom_mono {lo lo' : Nat} (m : Memory) (h : lo ≤ lo') (hm : Memory.wfFrom lo' m = true) :
    Memory.wfFrom lo m = true := by
  cases m with
  | nil => rfl
  | cons c rest =>
    simp only [Memory.wfFrom, Bool.and_eq_true, decide_eq_true_eq] at hm ⊢
    exact ⟨⟨⟨by omega, hm.1.1.2⟩, hm.1.2⟩, hm.2⟩

theorem Memory.wfFrom_erase (lo a : Nat) (m : Memory) (hm : Memory.wfFrom lo m = true) :
    Memory.wfFrom lo (Memory.erase m a) = true := by
  induction m generalizing lo with
  | nil => rfl
  | cons c rest ih =>
    simp only [Memory.wfFrom, Bool.and_eq_true, decide_eq_true_eq] at hm
    have ih' := ih _ hm.2
    by_cases h : c.1 = a
    · have : Memory.erase (c :: rest) a = Memory.erase rest a := by simp [Memory.erase, h]
      rw [this]
      exact Memory.wfFrom_mono _ (by omega) ih'
    · have : Memory.erase (c :: rest) a = c :: Memory.erase rest a := by simp [Memory.erase, h]
      rw [this]; simp [Memory.wfFrom, hm.1.1.1, hm.1.1.2, ih']; simpa using hm.1.2

theorem Memory.wfFrom_insert (lo : Nat) (c : Host.Cell) (m : Memory) (hc : lo ≤ c.1) (hs : c.1 < memSize)
    (hb : c.2 ≠ Memory.blank c.1) (hne : ∀ d ∈ m, d.1 ≠ c.1) (hm : Memory.wfFrom lo m = true) :
    Memory.wfFrom lo (Memory.insert c m) = true := by
  induction m generalizing lo with
  | nil => simp [Memory.insert, Memory.wfFrom, hc, hs, hb]
  | cons d rest ih =>
    simp only [Memory.wfFrom, Bool.and_eq_true, decide_eq_true_eq] at hm
    simp only [List.mem_cons, forall_eq_or_imp] at hne
    unfold Memory.insert
    split
    · next h =>
      simp only [Memory.wfFrom, Bool.and_eq_true, decide_eq_true_eq]
      exact ⟨⟨⟨hc, hs⟩, by simpa using hb⟩, ⟨⟨by omega, hm.1.1.2⟩, hm.1.2⟩, hm.2⟩
    · next h =>
      simp only [Memory.wfFrom, Bool.and_eq_true, decide_eq_true_eq]
      exact ⟨hm.1, ih _ (by omega) hne.2 hm.2⟩

/-- A store into the address space keeps the canonical form. -/
theorem Memory.wf_write (m : Memory) (a : Nat) (v : Byte) (ha : a < memSize) (hm : Memory.wf m = true) :
    Memory.wf (Memory.write m a v) = true := by
  unfold Memory.wf Memory.write at *
  split
  · exact Memory.wfFrom_erase _ _ _ hm
  · next h => exact Memory.wfFrom_insert _ _ _ (Nat.zero_le _) ha h (Memory.erase_ne m a) (Memory.wfFrom_erase _ _ _ hm)

theorem Memory.wf_writeAll (ws : List (Nat × Byte)) (m : Memory) (ha : ∀ w ∈ ws, w.1 < memSize) (hm : Memory.wf m = true) :
    Memory.wf (Memory.writeAll m ws) = true := by
  induction ws generalizing m with
  | nil => exact hm
  | cons w rest ih =>
    simp only [List.mem_cons, forall_eq_or_imp] at ha
    exact ih _ ha.2 (Memory.wf_write m w.1 w.2 ha.1 hm)

/-- The cells of a memory in canonical form lie in the address space and start at the bound. -/
theorem Memory.wfFrom_bound {lo : Nat} {m : Memory} (hm : Memory.wfFrom lo m = true) :
    ∀ c ∈ m, lo ≤ c.1 ∧ c.1 < memSize := by
  induction m generalizing lo with
  | nil => simp
  | cons c rest ih =>
    simp only [Memory.wfFrom, Bool.and_eq_true, decide_eq_true_eq] at hm
    simp only [List.mem_cons, forall_eq_or_imp]
    exact ⟨hm.1.1, fun d hd => ⟨by have := (ih hm.2 d hd).1; omega, (ih hm.2 d hd).2⟩⟩

theorem Memory.read_unlisted (m : Memory) (a : Nat) (h : ∀ c ∈ m, c.1 ≠ a) : Memory.read m a = Memory.blank a := by
  induction m with
  | nil => rfl
  | cons c rest ih =>
    simp only [List.mem_cons, forall_eq_or_imp] at h
    simp [Memory.read, h.1, ih h.2]

/-- Equal memories are equal data: two memories in canonical form that read the same everywhere are the same list. -/
theorem Memory.ext_of_read {lo : Nat} (m m' : Memory) (hm : Memory.wfFrom lo m = true) (hm' : Memory.wfFrom lo m' = true)
    (h : ∀ a, lo ≤ a → Memory.read m a = Memory.read m' a) : m = m' := by
  induction m generalizing lo m' with
  | nil =>
    cases m' with
    | nil => rfl
    | cons d rest' =>
      simp only [Memory.wfFrom, Bool.and_eq_true, decide_eq_true_eq, bne_iff_ne] at hm'
      exact absurd (by simpa [Memory.read] using (h d.1 hm'.1.1.1).symm) hm'.1.2
  | cons c rest ih =>
    have hc := hm
    simp only [Memory.wfFrom, Bool.and_eq_true, decide_eq_true_eq, bne_iff_ne] at hc
    cases m' with
    | nil => exact absurd (by simpa [Memory.read] using h c.1 hc.1.1.1) hc.1.2
    | cons d rest' =>
      have hd := hm'
      simp only [Memory.wfFrom, Bool.and_eq_true, decide_eq_true_eq, bne_iff_ne] at hd
      have low : ∀ {c : Host.Cell} {r : Memory} {a : Nat}, Memory.wfFrom (c.1 + 1) r = true → a ≤ c.1 →
          Memory.read r a = Memory.blank a := fun hr ha =>
        Memory.read_unlisted _ _ (fun e he h' => by have := (Memory.wfFrom_bound hr e he).1; omega)
      have e1 : c.1 = d.1 := by
        rcases Nat.lt_trichotomy c.1 d.1 with hlt | he | hgt
        · have := h c.1 hc.1.1.1
          simp only [Memory.read, if_true, if_neg (Nat.ne_of_gt hlt)] at this
          exact absurd (this.trans (low hd.2 (Nat.le_of_lt hlt))) hc.1.2
        · exact he
        · have := h d.1 hd.1.1.1
          simp only [Memory.read, if_true, if_neg (Nat.ne_of_gt hgt)] at this
          exact absurd (this.symm.trans (low hc.2 (Nat.le_of_lt hgt))) hd.1.2
      have e2 : c.2 = d.2 := by simpa [Memory.read, e1] using h c.1 hc.1.1.1
      have e : c = d := Prod.ext e1 e2
      subst e
      congr 1
      refine ih rest' hc.2 hd.2 (fun a ha => ?_)
      have := h a (by omega)
      simpa [Memory.read, show c.1 ≠ a by omega] using this

end Sys2Proof.Machine
end

