-- ==== Sys2Proof/Laws/Registers.lean ====
section
/-!
SUPPORT. The laws of the general registers: read after write, and what a result with its flag leaves (R11, R20, R121).
-/

namespace Sys2Proof.Machine

theorem getElem_putReg (v : Vector Byte 16) (x r : Ix16) (b : Byte) :
    (putReg v x b)[r] = if r = x then b else v[r] := by
  rcases eq_or_ne r x with h | h
  · subst h; simp [putReg]
  · have : x.val ≠ r.val := fun e => h (Fin.ext e.symm)
    simp [putReg, h, this]

@[simp] theorem reg_setReg (s : State) (x r : Ix16) (b : Byte) :
    (s.setReg x b).reg r = if r = x then b else s.reg r := getElem_putReg s.v x r b

theorem reg_setReg_same (s : State) (x : Ix16) (b : Byte) : (s.setReg x b).reg x = b := by simp

theorem reg_setReg_other (s : State) {x r : Ix16} (b : Byte) (h : r ≠ x) : (s.setReg x b).reg r = s.reg r := by simp [h]

/-- Two states with the same register file read the same. -/
theorem reg_congr {s t : State} (h : t.v = s.v) (r : Ix16) : t.reg r = s.reg r := by simp [State.reg, h]

theorem reg_writeRF (s : State) (d r : Ix16) (result flag : Byte) :
    (s.writeRF d result flag).reg r =
      if r = d ∧ (d ≠ vf ∨ s.cfg.vfAliasOrder = .resultLast) then result
      else if r = vf then flag else s.reg r := by
  unfold State.reg
  rw [State.writeRF_v]
  cases h : s.cfg.vfAliasOrder <;> simp only [putResultFlag, getElem_putReg] <;> by_cases h1 : r = d <;>
    by_cases h2 : r = vf <;> simp_all

theorem mem_allIx (k : Ix16) : k ∈ allIx := by revert k; decide

@[simp] theorem mem_ixUpTo (x k : Ix16) : k ∈ ixUpTo x ↔ k ≤ x := by simp [ixUpTo, mem_allIx]

theorem nodup_ixUpTo (x : Ix16) : (ixUpTo x).Nodup := by revert x; decide

theorem ixUpTo_map_val (x : Ix16) : (ixUpTo x).map Fin.val = List.range (x.val + 1) := by revert x; decide

theorem length_ixUpTo (x : Ix16) : (ixUpTo x).length = x.val + 1 := by
  simpa using congrArg List.length (ixUpTo_map_val x)

/-- A register no write of the list names keeps its value. -/
theorem getElem_putRegs_other (ws : List (Ix16 × Byte)) (v : Vector Byte 16) (r : Ix16)
    (h : ∀ w ∈ ws, w.1 ≠ r) : (putRegs v ws)[r] = v[r] := by
  induction ws generalizing v with
  | nil => rfl
  | cons w rest ih =>
    simp only [List.mem_cons, forall_eq_or_imp] at h
    show (putRegs (putReg v w.1 w.2) rest)[r] = v[r]
    rw [ih _ h.2, getElem_putReg, if_neg (Ne.symm h.1)]

/-- A register written once in the list holds the value written. -/
theorem getElem_putRegs_mem (ws : List (Ix16 × Byte)) (v : Vector Byte 16) (r : Ix16) (b : Byte)
    (nd : (ws.map Prod.fst).Nodup) (h : (r, b) ∈ ws) : (putRegs v ws)[r] = b := by
  induction ws generalizing v with
  | nil => simp at h
  | cons w rest ih =>
    simp only [List.map_cons, List.nodup_cons, List.mem_map, not_exists, not_and] at nd
    show (putRegs (putReg v w.1 w.2) rest)[r] = b
    rcases List.mem_cons.1 h with rfl | h
    · rw [getElem_putRegs_other _ _ _ (fun w hw e => nd.1 w hw e), getElem_putReg, if_pos rfl]
    · exact ih _ nd.2 h

end Sys2Proof.Machine
end

