-- ==== Sys2Proof/Laws/Access.lean ====
section
/-!
SUPPORT. What the shared operations over addresses can do, said once each: phys, physAll, loadBytes, storeBytes, conclude
(R52, R55, R193).
-/

namespace Sys2Proof.Machine

/-- A mapped address is the address modulo the memory size, and lies in memory (R52). -/
theorem phys_ok {p : AddrPolicy} {a b : Nat} (h : phys p a = .ok b) : b = a % memSize ∧ b < memSize := by
  cases p
  · simp only [phys, Except.ok.injEq] at h
    subst h; exact ⟨rfl, Nat.mod_lt _ (by decide)⟩
  · simp only [phys] at h
    split at h
    · next hlt => cases h; exact ⟨(Nat.mod_eq_of_lt hlt).symm, hlt⟩
    · cases h

/-- Mapping fails only with an address fault, only under Fault, only above 0xFFF (R52). -/
theorem phys_error {p : AddrPolicy} {a : Nat} {k : FaultKind} (h : phys p a = .error k) :
    k = .addressOutOfRange ∧ p = .fault ∧ memSize ≤ a := by
  cases p
  · simp [phys] at h
  · simp only [phys] at h
    split at h
    · cases h
    · cases h; exact ⟨rfl, rfl, by omega⟩

theorem phys_of_ok {p : AddrPolicy} {a : Nat} (h : p = .wrap ∨ a ≤ 0xFFF) : phys p a = .ok (a % memSize) := by
  cases p
  · rfl
  · have : a < memSize := by unfold memSize; simp at h; omega
    simp [phys, this, Nat.mod_eq_of_lt this]

/-- A list of addresses maps exactly when each address of it maps, to the addresses modulo the memory size (R64). -/
theorem physAll_of_ok {p : AddrPolicy} {as : List Nat} (h : ∀ a ∈ as, p = .wrap ∨ a ≤ 0xFFF) :
    physAll p as = .ok (as.map (fun a => a % memSize)) := by
  induction as with
  | nil => rfl
  | cons a rest ih =>
    simp only [List.mem_cons, forall_eq_or_imp] at h
    simp [physAll, phys_of_ok h.1, ih h.2]

theorem physAll_ok {p : AddrPolicy} {as bs : List Nat} (h : physAll p as = .ok bs) :
    bs = as.map (fun a => a % memSize) ∧ ∀ a ∈ as, p = .wrap ∨ a ≤ 0xFFF := by
  induction as generalizing bs with
  | nil => cases h; simp
  | cons a rest ih =>
    simp only [physAll] at h
    split at h
    · cases h
    · next b hb =>
      split at h
      · cases h
      · next cs hcs =>
        cases h
        obtain ⟨e, hr⟩ := ih hcs
        obtain ⟨eb, hlt⟩ := phys_ok hb
        refine ⟨by simp [e, eb], ?_⟩
        simp only [List.mem_cons, forall_eq_or_imp]
        refine ⟨?_, hr⟩
        cases p
        · exact .inl rfl
        · right
          simp only [phys] at hb
          split at hb
          · next hlt => unfold memSize at hlt; omega
          · cases hb

theorem physAll_error {p : AddrPolicy} {as : List Nat} {k : FaultKind} (h : physAll p as = .error k) :
    k = .addressOutOfRange ∧ p = .fault ∧ ∃ a ∈ as, 0xFFF < a := by
  induction as with
  | nil => cases h
  | cons a rest ih =>
    simp only [physAll] at h
    split at h
    · next hb =>
      cases h
      obtain ⟨e, e', hge⟩ := phys_error hb
      exact ⟨e, e', a, List.mem_cons_self, by unfold memSize at hge; omega⟩
    · split at h
      · next hr =>
        cases h
        obtain ⟨e, e', b, hb, hlt⟩ := ih hr
        exact ⟨e, e', b, List.mem_cons_of_mem _ hb, hlt⟩
      · cases h

/-- What a load can do (R12, R55). -/
theorem loadBytes_ok {p : AddrPolicy} {m : Memory} {as : List Nat} {bytes : List Byte} (h : loadBytes p m as = .ok bytes) :
    bytes = as.map (fun a => m.read (a % memSize)) ∧ ∀ a ∈ as, p = .wrap ∨ a ≤ 0xFFF := by
  simp only [loadBytes] at h
  split at h
  · cases h
  · next bs hbs =>
    cases h
    obtain ⟨e, ok⟩ := physAll_ok hbs
    exact ⟨by simp [e], ok⟩

theorem loadBytes_of_ok {p : AddrPolicy} {m : Memory} {as : List Nat} (h : ∀ a ∈ as, p = .wrap ∨ a ≤ 0xFFF) :
    loadBytes p m as = .ok (as.map (fun a => m.read (a % memSize))) := by
  simp [loadBytes, physAll_of_ok h]

theorem loadBytes_error {p : AddrPolicy} {m : Memory} {as : List Nat} {k : FaultKind} (h : loadBytes p m as = .error k) :
    k = .addressOutOfRange ∧ p = .fault ∧ ∃ a ∈ as, 0xFFF < a := by
  simp only [loadBytes] at h
  split at h
  · next hp => cases h; exact physAll_error hp
  · cases h

theorem zip_map_fst_snd (ws : List (Nat × Byte)) (f : Nat → Nat) :
    ((ws.map Prod.fst).map f).zip (ws.map Prod.snd) = ws.map (fun w => (f w.1, w.2)) := by
  induction ws with
  | nil => rfl
  | cons w rest ih => simp_all

/-- What a store can do (R55, R193): all the writes, in order, at the mapped addresses. -/
theorem storeBytes_ok {p : AddrPolicy} {m m' : Memory} {ws : List (Nat × Byte)} (h : storeBytes p m ws = .ok m') :
    m' = m.writeAll (ws.map (fun w => (w.1 % memSize, w.2))) ∧ ∀ w ∈ ws, p = .wrap ∨ w.1 ≤ 0xFFF := by
  simp only [storeBytes] at h
  split at h
  · cases h
  · next bs hbs =>
    cases h
    obtain ⟨e, ok⟩ := physAll_ok hbs
    exact ⟨by rw [e, zip_map_fst_snd], fun w hw => ok w.1 (List.mem_map.2 ⟨w, hw, rfl⟩)⟩

theorem storeBytes_of_ok {p : AddrPolicy} {m : Memory} {ws : List (Nat × Byte)} (h : ∀ w ∈ ws, p = .wrap ∨ w.1 ≤ 0xFFF) :
    storeBytes p m ws = .ok (m.writeAll (ws.map (fun w => (w.1 % memSize, w.2)))) := by
  have : ∀ a ∈ ws.map Prod.fst, p = .wrap ∨ a ≤ 0xFFF := by
    intro a ha; obtain ⟨w, hw, rfl⟩ := List.mem_map.1 ha; exact h w hw
  rw [storeBytes, physAll_of_ok this]
  simp only [zip_map_fst_snd]

theorem storeBytes_error {p : AddrPolicy} {m : Memory} {ws : List (Nat × Byte)} {k : FaultKind}
    (h : storeBytes p m ws = .error k) : k = .addressOutOfRange ∧ p = .fault ∧ ∃ w ∈ ws, 0xFFF < w.1 := by
  simp only [storeBytes] at h
  split at h
  · next hp =>
    cases h
    obtain ⟨e, e', a, ha, hlt⟩ := physAll_error hp
    obtain ⟨w, hw, rfl⟩ := List.mem_map.1 ha
    exact ⟨e, e', w, hw, hlt⟩
  · cases h

theorem storeBytes_wf {p : AddrPolicy} {m m' : Memory} {ws : List (Nat × Byte)} (h : storeBytes p m ws = .ok m')
    (hm : m.wf = true) : m'.wf = true := by
  obtain ⟨rfl, -⟩ := storeBytes_ok h
  refine Memory.wf_writeAll _ _ (fun w hw => ?_) hm
  obtain ⟨v, -, rfl⟩ := List.mem_map.1 hw
  exact Nat.mod_lt _ (by decide)

theorem mem_consecutive {base n a : Nat} : a ∈ consecutive base n ↔ ∃ k, k < n ∧ base + k = a := by
  simp [consecutive]

theorem zip_map_self {α β : Type} (l : List α) (f : α → β) : l.zip (l.map f) = l.map (fun a => (a, f a)) := by
  induction l with
  | nil => rfl
  | cons a rest ih => simp_all

/-- The register writes of LD Vx, [I]: V[k] gets the byte read at I + k (R145). -/
theorem regLoads_eq (x : Ix16) (base : Nat) (f : Nat → Byte) :
    regLoads x ((consecutive base (x.val + 1)).map f) = (ixUpTo x).map (fun k => (k, f (base + k.val))) := by
  rw [regLoads, consecutive, ← ixUpTo_map_val, List.map_map, List.map_map]
  exact zip_map_self _ _

/-- Both outcomes of a handler are next states (R193). -/
theorem conclude_next {s t : State} {r : Except FaultKind State} (h : conclude s r = .next t) :
    r = .ok t ∨ ∃ k, r = .error k ∧ t = raise k s := by
  cases r <;> simp only [conclude, Host.Outcome.next.injEq] at h
  · exact .inr ⟨_, rfl, h.symm⟩
  · exact .inl (by rw [h])

@[simp] theorem conclude_ok (s t : State) : conclude s (.ok t) = .next t := rfl

@[simp] theorem conclude_error (s : State) (k : FaultKind) : conclude s (.error k) = .next (raise k s) := rfl

@[simp] theorem reg_raise (k : FaultKind) (s : State) (r : Ix16) : (raise k s).reg r = s.reg r := rfl

@[simp] theorem reg_beginExecute (w : Word) (s : State) (r : Ix16) : (beginExecute w s).reg r = s.reg r := rfl

@[simp] theorem reg_tickTimers (s : State) (r : Ix16) : (tickTimers s).reg r = s.reg r := rfl

@[simp] theorem reg_raiseFetch (k : FaultKind) (s : State) (r : Ix16) : (raiseFetch k s).reg r = s.reg r := rfl

@[simp] theorem reg_skip (s : State) (r : Ix16) : s.skip.reg r = s.reg r := rfl

/-- The entry an SP value names is the one with its number (R26). -/
theorem stackEntry_eq_some {sp : Byte} {k : Ix16} : stackEntry sp = some k ↔ sp.toNat = k.val := by
  unfold stackEntry
  split
  · simp only [Option.some.injEq]
    exact ⟨fun h => by rw [← h], fun h => Fin.ext h⟩
  · simp only [reduceCtorEq, false_iff]
    have := k.isLt; omega

theorem stackEntry_eq_none {sp : Byte} : stackEntry sp = none ↔ 16 ≤ sp.toNat := by
  unfold stackEntry; split <;> simp_all

theorem keyIndex_ok {b : Byte} {k : Ix16} : keyIndex b = .ok k ↔ b.toNat = k.val := by
  unfold keyIndex
  split
  · simp only [Except.ok.injEq]
    exact ⟨fun h => by rw [← h], fun h => Fin.ext h⟩
  · simp only [reduceCtorEq, false_iff]
    have := k.isLt; omega

theorem keyIndex_error {b : Byte} {k : FaultKind} (h : keyIndex b = .error k) : k = .keyIndexOutOfRange ∧ 15 < b.toNat := by
  unfold keyIndex at h
  split at h
  · cases h
  · cases h; exact ⟨rfl, by omega⟩

end Sys2Proof.Machine
end

