-- ==== Sys2Proof/Laws/Display.lean ====
section
/-!
SUPPORT. The laws of the display: a toggled cell flips and no other does, and what a blit leaves (R32, R33, R161).
-/

namespace Sys2Proof.Machine

/-- A toggle flips its cell and leaves every other cell (R161). -/
theorem pixel_togglePixel (d : Display) {l : Nat} (hl : l < dispCells) (l' : Nat) :
    pixel (togglePixel d l) l' = (pixel d l' ^^ decide (l' = l)) := by
  unfold dispCells at hl
  have hr : l / dispW < 32 := by unfold dispW; omega
  unfold pixel togglePixel
  simp only [hr, dif_pos]
  by_cases h' : l' / dispW < 32
  · simp only [h', dif_pos, Vector.getElem_set]
    by_cases he : l / dispW = l' / dispW
    · have hm : l' % dispW < 64 := Nat.mod_lt _ (by decide)
      have : (l' = l) ↔ (l' % dispW = l % dispW) := by unfold dispW at *; omega
      have hm2 : l % dispW < 64 := Nat.mod_lt _ (by decide)
      rw [if_pos he]
      simp only [BitVec.getLsbD_xor, he, this]
      congr 1
      rw [BitVec.getLsbD_shiftLeft]
      by_cases hlt : l' % dispW < l % dispW
      · simp [hm, hlt]; omega
      · simp only [hm, hlt, BitVec.getLsbD_one]
        by_cases heq : l' % dispW = l % dispW <;> simp [heq]
        omega
    · have : l' ≠ l := fun e => he (by rw [e])
      simp [he, this]
  · have : l' ≠ l := fun e => h' (by rw [e]; exact hr)
    simp [h', this]

/-- Two displays with the same cells are the same display. -/
theorem display_ext {d d' : Display} (h : ∀ l, l < dispCells → pixel d l = pixel d' l) : d = d' := by
  apply Vector.ext
  intro r hr
  apply BitVec.eq_of_getLsbD_eq
  intro c hc
  have := h (r * 64 + c) (by unfold dispCells; omega)
  have e1 : (r * 64 + c) / dispW = r := by unfold dispW; omega
  have e2 : (r * 64 + c) % dispW = c := by unfold dispW; omega
  simpa [pixel, e1, e2, hr] using this

/-- What a blit leaves, over distinct cells inside the buffer: exactly those cells flipped, and the flag whether one was on
(R161 (3)). -/
theorem blit_spec (ls : List Nat) (d : Display) (hit : Bool) (hb : ∀ l ∈ ls, l < dispCells) (nd : ls.Nodup) :
    (∀ l, pixel (blit ls d hit).1 l = (pixel d l ^^ decide (l ∈ ls))) ∧
      (blit ls d hit).2 = (hit || ls.any (fun l => pixel d l)) := by
  induction ls generalizing d hit with
  | nil => simp [blit]
  | cons l rest ih =>
    simp only [List.mem_cons, forall_eq_or_imp] at hb
    rw [List.nodup_cons] at nd
    obtain ⟨h1, h2⟩ := ih (togglePixel d l) (hit || pixel d l) hb.2 nd.2
    refine ⟨fun l' => ?_, ?_⟩
    · simp only [blit, h1, pixel_togglePixel d hb.1, List.mem_cons]
      by_cases e : l' = l
      · subst e; simp [nd.1]
      · simp [e]
    · simp only [blit, h2, List.any_cons, Bool.or_assoc]
      congr 2
      have same : ∀ m ∈ rest, pixel (togglePixel d l) m = pixel d m := fun m hm => by
        have : m ≠ l := fun e => nd.1 (e ▸ hm)
        simp [pixel_togglePixel d hb.1, this]
      rw [Bool.eq_iff_iff]
      simp only [List.any_eq_true]
      exact exists_congr fun m => and_congr_right fun hm => by rw [same m hm]

@[simp] theorem mem_litColumns (b : Byte) (c : Nat) : c ∈ litColumns b ↔ c < 8 ∧ b.getLsbD (7 - c) = true := by
  simp [litColumns]

/-- The cells of a sprite's lit bits: row and column offsets of the lit bits of its bytes (R161). -/
theorem mem_litCells (x0 y0 : Nat) (rows : List Byte) (cell : Nat × Nat) :
    cell ∈ litCells x0 y0 rows ↔
      ∃ r c b, rows[r]? = some b ∧ c < 8 ∧ b.getLsbD (7 - c) = true ∧ cell = (x0 + c, y0 + r) := by
  simp only [litCells, List.mem_flatMap, List.mem_map, mem_litColumns, Prod.exists, List.mem_zipIdx_iff_getElem?]
  constructor
  · rintro ⟨b, r, hr, c, ⟨hc, hb⟩, rfl⟩; exact ⟨r, c, b, hr, hc, hb, rfl⟩
  · rintro ⟨r, c, b, hr, hc, hb, rfl⟩; exact ⟨b, r, hr, c, ⟨hc, hb⟩, rfl⟩

theorem nodup_litColumns (b : Byte) : (litColumns b).Nodup := List.nodup_range.filter _

/-- Distinct lit bits have distinct linear indices, because a sprite is 8 columns wide and a row 64 (R161 (3)). -/
theorem nodup_litCells_index (x0 y0 : Nat) (rows : List Byte) :
    ((litCells x0 y0 rows).map (fun c => cellIndex c.1 c.2)).Nodup := by
  suffices h : ∀ k, ((rows.zipIdx k).flatMap (fun r => (litColumns r.1).map (fun c => cellIndex (x0 + c) (y0 + r.2)))).Nodup by
    simpa [litCells, List.map_flatMap, Function.comp_def] using h 0
  induction rows with
  | nil => intro k; simp
  | cons b rest ih =>
    intro k
    simp only [List.zipIdx_cons, List.flatMap_cons]
    refine List.Nodup.append ?_ (ih _) ?_
    · refine (nodup_litColumns b).map fun c c' h => ?_
      simp only [cellIndex] at h; omega
    · intro l h1 h2
      simp only [List.mem_map, List.mem_flatMap, Prod.exists, mem_litColumns] at h1 h2
      obtain ⟨c, ⟨hc, -⟩, e1⟩ := h1
      obtain ⟨b', r, hr, c', ⟨hc', -⟩, e2⟩ := h2
      have := List.le_snd_of_mem_zipIdx hr
      simp only [cellIndex, dispW] at e1 e2
      simp only at this
      omega

end Sys2Proof.Machine
end

