-- ==== Sys2Proof/Laws/Encoding.lean ====
section
/-!
SUPPORT. The fields of the word formats (R71): reading a field of a format gives the field, a word is made of its fields, and
a mask of nibbles acts nibble by nibble.
-/

namespace Sys2Proof

theorem fmtXYN_toNat (o x y n : Nibble) :
    (fmtXYN o x y n).toNat = o.toNat * 4096 + x.toNat * 256 + y.toNat * 16 + n.toNat := by
  simp only [fmtXYN, BitVec.toNat_append]
  have := x.isLt; have := y.isLt; have := n.isLt
  rw [← Nat.shiftLeft_add_eq_or_of_lt (by omega), ← Nat.shiftLeft_add_eq_or_of_lt (by omega),
    ← Nat.shiftLeft_add_eq_or_of_lt (by omega)]
  simp only [Nat.shiftLeft_eq]; omega

theorem fmtXI_eq (o x : Nibble) (nn : Byte) :
    fmtXI o x nn = fmtXYN o x (nn.extractLsb' 4 4) (nn.extractLsb' 0 4) := by
  apply BitVec.eq_of_toNat_eq
  have hn := nn.isLt; have := x.isLt
  rw [fmtXYN_toNat]
  simp only [fmtXI, BitVec.toNat_append, BitVec.extractLsb'_toNat]
  rw [← Nat.shiftLeft_add_eq_or_of_lt (by omega), ← Nat.shiftLeft_add_eq_or_of_lt (by omega)]
  simp only [Nat.shiftLeft_eq, Nat.shiftRight_eq_div_pow]; omega

theorem fmtA_eq (o : Nibble) (nnn : Addr12) :
    fmtA o nnn = fmtXYN o (nnn.extractLsb' 8 4) (nnn.extractLsb' 4 4) (nnn.extractLsb' 0 4) := by
  apply BitVec.eq_of_toNat_eq
  have hn := nnn.isLt
  rw [fmtXYN_toNat]
  simp only [fmtA, BitVec.toNat_append, BitVec.extractLsb'_toNat]
  rw [← Nat.shiftLeft_add_eq_or_of_lt (by omega)]
  simp only [Nat.shiftLeft_eq, Nat.shiftRight_eq_div_pow]; omega

@[simp] theorem opField_fmtXYN (o x y n : Nibble) : opField (fmtXYN o x y n) = o := by
  apply BitVec.eq_of_toNat_eq
  have := o.isLt; have := x.isLt; have := y.isLt; have := n.isLt
  simp only [opField, BitVec.extractLsb'_toNat, fmtXYN_toNat, Nat.shiftRight_eq_div_pow]; omega

@[simp] theorem xField_fmtXYN (o x y n : Nibble) : xField (fmtXYN o x y n) = x := by
  apply BitVec.eq_of_toNat_eq
  have := o.isLt; have := x.isLt; have := y.isLt; have := n.isLt
  simp only [xField, BitVec.extractLsb'_toNat, fmtXYN_toNat, Nat.shiftRight_eq_div_pow]; omega

@[simp] theorem yField_fmtXYN (o x y n : Nibble) : yField (fmtXYN o x y n) = y := by
  apply BitVec.eq_of_toNat_eq
  have := o.isLt; have := x.isLt; have := y.isLt; have := n.isLt
  simp only [yField, BitVec.extractLsb'_toNat, fmtXYN_toNat, Nat.shiftRight_eq_div_pow]; omega

@[simp] theorem nField_fmtXYN (o x y n : Nibble) : nField (fmtXYN o x y n) = n := by
  apply BitVec.eq_of_toNat_eq
  have := o.isLt; have := x.isLt; have := y.isLt; have := n.isLt
  simp only [nField, BitVec.extractLsb'_toNat, fmtXYN_toNat, Nat.shiftRight_eq_div_pow]; omega

@[simp] theorem opField_fmtXI (o x : Nibble) (nn : Byte) : opField (fmtXI o x nn) = o := by simp [fmtXI_eq]

@[simp] theorem xField_fmtXI (o x : Nibble) (nn : Byte) : xField (fmtXI o x nn) = x := by simp [fmtXI_eq]

@[simp] theorem nField_fmtXI (o x : Nibble) (nn : Byte) : nField (fmtXI o x nn) = nn.extractLsb' 0 4 := by simp [fmtXI_eq]

@[simp] theorem nnField_fmtXI (o x : Nibble) (nn : Byte) : nnField (fmtXI o x nn) = nn := by
  apply BitVec.eq_of_toNat_eq
  have := o.isLt; have := x.isLt; have := nn.isLt
  simp only [nnField, fmtXI_eq, BitVec.extractLsb'_toNat, fmtXYN_toNat, Nat.shiftRight_eq_div_pow]; omega

@[simp] theorem opField_fmtA (o : Nibble) (nnn : Addr12) : opField (fmtA o nnn) = o := by simp [fmtA_eq]

@[simp] theorem nnnField_fmtA (o : Nibble) (nnn : Addr12) : nnnField (fmtA o nnn) = nnn := by
  apply BitVec.eq_of_toNat_eq
  have := o.isLt; have := nnn.isLt
  simp only [nnnField, fmtA_eq, BitVec.extractLsb'_toNat, fmtXYN_toNat, Nat.shiftRight_eq_div_pow]; omega

/-- A word is made of its four nibbles (R71). -/
theorem fmtXYN_fields (w : Word) : fmtXYN (opField w) (xField w) (yField w) (nField w) = w := by
  apply BitVec.eq_of_toNat_eq
  have := w.isLt
  simp only [fmtXYN_toNat, opField, xField, yField, nField, BitVec.extractLsb'_toNat, Nat.shiftRight_eq_div_pow]; omega

/-- A word is made of op, x and NN (R71). -/
theorem fmtXI_fields (w : Word) : fmtXI (opField w) (xField w) (nnField w) = w := by
  apply BitVec.eq_of_toNat_eq
  have := w.isLt
  simp only [fmtXI_eq, fmtXYN_toNat, opField, xField, nnField, BitVec.extractLsb'_toNat, Nat.shiftRight_eq_div_pow]; omega

/-- A word is made of op and NNN (R71). -/
theorem fmtA_fields (w : Word) : fmtA (opField w) (nnnField w) = w := by
  apply BitVec.eq_of_toNat_eq
  have := w.isLt
  simp only [fmtA_eq, fmtXYN_toNat, opField, nnnField, BitVec.extractLsb'_toNat, Nat.shiftRight_eq_div_pow]; omega

/-- A mask acts nibble by nibble. -/
theorem fmtXYN_and (o x y n o' x' y' n' : Nibble) :
    fmtXYN o x y n &&& fmtXYN o' x' y' n' = fmtXYN (o &&& o') (x &&& x') (y &&& y') (n &&& n') := by
  simp only [fmtXYN, ← BitVec.and_append]

theorem nibble_and (k : Nibble) : k &&& 0x0#4 = 0x0#4 ∧ k &&& 0xF#4 = k := by revert k; decide

theorem mask_F000 (o x y n : Nibble) : fmtXYN o x y n &&& 0xF000#16 = fmtXYN o 0x0#4 0x0#4 0x0#4 := by
  have : 0xF000#16 = fmtXYN 0xF#4 0x0#4 0x0#4 0x0#4 := by decide
  rw [this, fmtXYN_and]; simp only [nibble_and]

theorem mask_F00F (o x y n : Nibble) : fmtXYN o x y n &&& 0xF00F#16 = fmtXYN o 0x0#4 0x0#4 n := by
  have : 0xF00F#16 = fmtXYN 0xF#4 0x0#4 0x0#4 0xF#4 := by decide
  rw [this, fmtXYN_and]; simp only [nibble_and]

theorem mask_F0FF (o x y n : Nibble) : fmtXYN o x y n &&& 0xF0FF#16 = fmtXYN o 0x0#4 y n := by
  have : 0xF0FF#16 = fmtXYN 0xF#4 0x0#4 0xF#4 0xF#4 := by decide
  rw [this, fmtXYN_and]; simp only [nibble_and]

end Sys2Proof
end

