-- ==== Sys2Proof/Laws/HostInterface.lean ====
section
/-!
SUPPORT. What laying bytes out in memory leaves, said once for the ROM load and the font of reset (R221, R222).
-/

namespace Sys2Proof.Machine

theorem mem_bytesFrom {base : Nat} {bytes : List Byte} {w : Nat × Byte} :
    w ∈ bytesFrom base bytes ↔ ∃ k, bytes[k]? = some w.2 ∧ base + k = w.1 := by
  obtain ⟨a, v⟩ := w
  simp only [bytesFrom, List.mem_map, List.mem_zipIdx_iff_getElem?, Prod.mk.injEq, Prod.exists]
  constructor
  · rintro ⟨b, k, hk, rfl, rfl⟩; exact ⟨k, hk, rfl⟩
  · rintro ⟨k, hk, rfl⟩; exact ⟨v, k, hk, rfl, rfl⟩

/-- Bytes are laid out at distinct addresses. -/
theorem nodup_bytesFrom (base : Nat) (bytes : List Byte) : ((bytesFrom base bytes).map Prod.fst).Nodup := by
  have : (bytesFrom base bytes).map Prod.fst = (bytes.zipIdx.map Prod.snd).map (fun k => base + k) := by
    simp only [bytesFrom, List.map_map, Function.comp_def]
  rw [this, List.zipIdx_map_snd]
  exact (List.nodup_range' ..).map fun a b h => by simpa using h

/-- The k-th byte laid out reads at base + k. -/
theorem read_bytesFrom_mem (m : Memory) {base k : Nat} {bytes : List Byte} {b : Byte} (hk : bytes[k]? = some b) :
    (m.writeAll (bytesFrom base bytes)).read (base + k) = b :=
  Memory.read_writeAll_mem _ _ _ _ (nodup_bytesFrom ..) (mem_bytesFrom.2 ⟨k, hk, rfl⟩)

/-- An address outside the bytes laid out reads as before. -/
theorem read_bytesFrom_other (m : Memory) {base a : Nat} {bytes : List Byte} (ha : a < base ∨ base + bytes.length ≤ a) :
    (m.writeAll (bytesFrom base bytes)).read a = m.read a := by
  refine Memory.read_writeAll_other _ _ _ fun w hw => ?_
  obtain ⟨k, hk, e⟩ := mem_bytesFrom.1 hw
  have := (List.getElem?_eq_some_iff.1 hk).1
  omega

/-- Laying bytes out inside memory keeps the canonical form (log entry 8). -/
theorem wf_bytesFrom (m : Memory) {base : Nat} {bytes : List Byte} (hb : base + bytes.length ≤ memSize) (hm : m.wf = true) :
    (m.writeAll (bytesFrom base bytes)).wf = true := by
  refine Memory.wf_writeAll _ _ (fun w hw => ?_) hm
  obtain ⟨k, hk, e⟩ := mem_bytesFrom.1 hw
  have := (List.getElem?_eq_some_iff.1 hk).1
  omega

end Sys2Proof.Machine
end

