-- ==== Sys2Proof/Laws/PerInstr.lean ====
section
/-!
SUPPORT. Statements made per instruction. Family TableRow: the canonical word of a well-formed instruction is selected by the
instruction's own row of spec/opcode_table.json, in both decode modes.
-/

namespace Sys2Proof.Laws.TableRow

/-- The row of the opcode table selects the instruction's canonical word (spec/INDEX.md, R79, R83). -/
def Statement (i : Instr) : Prop := ∀ m, i.wf m = true → i.row.selects m (encode i) = true

theorem selects_of {i : Instr} (hk : encode i &&& i.row.keyedMask = i.row.keyedPattern)
    (he : encode i &&& i.row.exactMask = i.row.exactPattern) : Statement i := by
  intro m _
  cases m
  · simpa [TableRow.selects, TableRow.mask, TableRow.pattern] using hk
  · simpa [TableRow.selects, TableRow.mask, TableRow.pattern] using he

theorem cls : Statement .cls :=
  selects_of (by decide) (by decide)

theorem ret : Statement .ret :=
  selects_of (by decide) (by decide)

theorem jp (nnn : Addr12) : Statement (.jp nnn) :=
  selects_of (by rw [encode, Instr.row, fmtA_eq, mask_F000]; decide) (by rw [encode, Instr.row, fmtA_eq, mask_F000]; decide)

theorem call (nnn : Addr12) : Statement (.call nnn) :=
  selects_of (by rw [encode, Instr.row, fmtA_eq, mask_F000]; decide) (by rw [encode, Instr.row, fmtA_eq, mask_F000]; decide)

theorem seImm (x : Ix16) (nn : Byte) : Statement (.seImm x nn) :=
  selects_of (by rw [encode, Instr.row, fmtXI_eq, mask_F000]; decide) (by rw [encode, Instr.row, fmtXI_eq, mask_F000]; decide)

theorem sneImm (x : Ix16) (nn : Byte) : Statement (.sneImm x nn) :=
  selects_of (by rw [encode, Instr.row, fmtXI_eq, mask_F000]; decide) (by rw [encode, Instr.row, fmtXI_eq, mask_F000]; decide)

theorem seReg (x : Ix16) (y : Ix16) : Statement (.seReg x y) :=
  selects_of (by rw [encode, Instr.row, mask_F000]; decide) (by rw [encode, Instr.row, mask_F00F]; decide)

theorem ldImm (x : Ix16) (nn : Byte) : Statement (.ldImm x nn) :=
  selects_of (by rw [encode, Instr.row, fmtXI_eq, mask_F000]; decide) (by rw [encode, Instr.row, fmtXI_eq, mask_F000]; decide)

theorem addImm (x : Ix16) (nn : Byte) : Statement (.addImm x nn) :=
  selects_of (by rw [encode, Instr.row, fmtXI_eq, mask_F000]; decide) (by rw [encode, Instr.row, fmtXI_eq, mask_F000]; decide)

theorem ldReg (x : Ix16) (y : Ix16) : Statement (.ldReg x y) :=
  selects_of (by rw [encode, Instr.row, mask_F00F]; decide) (by rw [encode, Instr.row, mask_F00F]; decide)

theorem orReg (x : Ix16) (y : Ix16) : Statement (.orReg x y) :=
  selects_of (by rw [encode, Instr.row, mask_F00F]; decide) (by rw [encode, Instr.row, mask_F00F]; decide)

theorem andReg (x : Ix16) (y : Ix16) : Statement (.andReg x y) :=
  selects_of (by rw [encode, Instr.row, mask_F00F]; decide) (by rw [encode, Instr.row, mask_F00F]; decide)

theorem xorReg (x : Ix16) (y : Ix16) : Statement (.xorReg x y) :=
  selects_of (by rw [encode, Instr.row, mask_F00F]; decide) (by rw [encode, Instr.row, mask_F00F]; decide)

theorem addReg (x : Ix16) (y : Ix16) : Statement (.addReg x y) :=
  selects_of (by rw [encode, Instr.row, mask_F00F]; decide) (by rw [encode, Instr.row, mask_F00F]; decide)

theorem sub (x : Ix16) (y : Ix16) : Statement (.sub x y) :=
  selects_of (by rw [encode, Instr.row, mask_F00F]; decide) (by rw [encode, Instr.row, mask_F00F]; decide)

theorem shr (x : Ix16) (y : Ix16) : Statement (.shr x y) :=
  selects_of (by rw [encode, Instr.row, mask_F00F]; decide) (by rw [encode, Instr.row, mask_F00F]; decide)

theorem subn (x : Ix16) (y : Ix16) : Statement (.subn x y) :=
  selects_of (by rw [encode, Instr.row, mask_F00F]; decide) (by rw [encode, Instr.row, mask_F00F]; decide)

theorem shl (x : Ix16) (y : Ix16) : Statement (.shl x y) :=
  selects_of (by rw [encode, Instr.row, mask_F00F]; decide) (by rw [encode, Instr.row, mask_F00F]; decide)

theorem sneReg (x : Ix16) (y : Ix16) : Statement (.sneReg x y) :=
  selects_of (by rw [encode, Instr.row, mask_F000]; decide) (by rw [encode, Instr.row, mask_F00F]; decide)

theorem ldI (nnn : Addr12) : Statement (.ldI nnn) :=
  selects_of (by rw [encode, Instr.row, fmtA_eq, mask_F000]; decide) (by rw [encode, Instr.row, fmtA_eq, mask_F000]; decide)

theorem jpV0 (nnn : Addr12) : Statement (.jpV0 nnn) :=
  selects_of (by rw [encode, Instr.row, fmtA_eq, mask_F000]; decide) (by rw [encode, Instr.row, fmtA_eq, mask_F000]; decide)

theorem rnd (x : Ix16) (nn : Byte) : Statement (.rnd x nn) :=
  selects_of (by rw [encode, Instr.row, fmtXI_eq, mask_F000]; decide) (by rw [encode, Instr.row, fmtXI_eq, mask_F000]; decide)

theorem drw (x : Ix16) (y : Ix16) (n : Ix16) : Statement (.drw x y n) :=
  selects_of (by rw [encode, Instr.row, mask_F000]; decide) (by rw [encode, Instr.row, mask_F000]; decide)

theorem skp (x : Ix16) : Statement (.skp x) :=
  selects_of (by rw [encode, Instr.row, fmtXI_eq, mask_F00F]; decide) (by rw [encode, Instr.row, fmtXI_eq, mask_F0FF]; decide)

theorem sknp (x : Ix16) : Statement (.sknp x) :=
  selects_of (by rw [encode, Instr.row, fmtXI_eq, mask_F00F]; decide) (by rw [encode, Instr.row, fmtXI_eq, mask_F0FF]; decide)

theorem ldVxDt (x : Ix16) : Statement (.ldVxDt x) :=
  selects_of (by rw [encode, Instr.row, fmtXI_eq, mask_F0FF]; decide) (by rw [encode, Instr.row, fmtXI_eq, mask_F0FF]; decide)

theorem ldVxK (x : Ix16) : Statement (.ldVxK x) :=
  selects_of (by rw [encode, Instr.row, fmtXI_eq, mask_F0FF]; decide) (by rw [encode, Instr.row, fmtXI_eq, mask_F0FF]; decide)

theorem ldDtVx (x : Ix16) : Statement (.ldDtVx x) :=
  selects_of (by rw [encode, Instr.row, fmtXI_eq, mask_F0FF]; decide) (by rw [encode, Instr.row, fmtXI_eq, mask_F0FF]; decide)

theorem ldStVx (x : Ix16) : Statement (.ldStVx x) :=
  selects_of (by rw [encode, Instr.row, fmtXI_eq, mask_F0FF]; decide) (by rw [encode, Instr.row, fmtXI_eq, mask_F0FF]; decide)

theorem addI (x : Ix16) : Statement (.addI x) :=
  selects_of (by rw [encode, Instr.row, fmtXI_eq, mask_F0FF]; decide) (by rw [encode, Instr.row, fmtXI_eq, mask_F0FF]; decide)

theorem ldF (x : Ix16) : Statement (.ldF x) :=
  selects_of (by rw [encode, Instr.row, fmtXI_eq, mask_F0FF]; decide) (by rw [encode, Instr.row, fmtXI_eq, mask_F0FF]; decide)

theorem ldB (x : Ix16) : Statement (.ldB x) :=
  selects_of (by rw [encode, Instr.row, fmtXI_eq, mask_F0FF]; decide) (by rw [encode, Instr.row, fmtXI_eq, mask_F0FF]; decide)

theorem ldMemVx (x : Ix16) : Statement (.ldMemVx x) :=
  selects_of (by rw [encode, Instr.row, fmtXI_eq, mask_F0FF]; decide) (by rw [encode, Instr.row, fmtXI_eq, mask_F0FF]; decide)

theorem ldVxMem (x : Ix16) : Statement (.ldVxMem x) :=
  selects_of (by rw [encode, Instr.row, fmtXI_eq, mask_F0FF]; decide) (by rw [encode, Instr.row, fmtXI_eq, mask_F0FF]; decide)

theorem nop (w : Word) : Statement (.nop w) :=
  selects_of (by simp [Instr.row]) (by simp [Instr.row])

end Sys2Proof.Laws.TableRow
end

