-- ==== Sys2Proof/Laws/Step.lean ====
section
/-!
SUPPORT. What one Cycle and the handlers that can raise a fault can do, said once each (R93, R193).
-/

namespace Sys2Proof.Machine

/-- What a fetch can do (R90). -/
theorem fetch_ok {s : State} {w : Word} (h : fetch s = .ok w) :
    phys s.cfg.addrPolicy s.pc.toNat = .ok (s.pc.toNat % memSize) ∧
    phys s.cfg.addrPolicy (s.pc.toNat + 1) = .ok ((s.pc.toNat + 1) % memSize) ∧
    w = wordOfBytes (s.mem.read (s.pc.toNat % memSize)) (s.mem.read ((s.pc.toNat + 1) % memSize)) := by
  simp only [fetch] at h
  split at h
  · cases h
  · next a ha =>
    split at h
    · cases h
    · next b hb =>
      obtain ⟨rfl, -⟩ := phys_ok ha
      obtain ⟨rfl, -⟩ := phys_ok hb
      cases h; exact ⟨ha, hb, rfl⟩

theorem fetch_error {s : State} {k : FaultKind} (h : fetch s = .error k) :
    k = .addressOutOfRange ∧ s.cfg.addrPolicy = .fault := by
  simp only [fetch] at h
  split at h
  · next ha => cases h; exact ⟨(phys_error ha).1, (phys_error ha).2.1⟩
  · split at h
    · next hb => cases h; exact ⟨(phys_error hb).1, (phys_error hb).2.1⟩
    · cases h

/-- Everything a Cycle that answers a next state can do (R93, R192). -/
theorem step_cases {s t : State} (h : step s = .next t) :
    (s.fault ≠ none ∧ t = haltedCycle s) ∨
    (s.fault = none ∧ ∃ k, fetch s = .error k ∧ t = raiseFetch k s) ∨
    (s.fault = none ∧ ∃ w u, fetch s = .ok w ∧ exec (decode s.cfg.decodeMode w) (beginExecute w s) = .next u ∧
      ((u.fault ≠ none ∧ t = u) ∨ (u.fault = none ∧ t = tickTimers u))) := by
  unfold step at h
  split at h
  · next hf => cases h; exact .inl ⟨by simpa [Option.isSome_iff_ne_none] using hf, rfl⟩
  · next hf =>
    have hf : s.fault = none := by simpa using hf
    right
    split at h
    · next k hk => cases h; exact .inl ⟨hf, k, hk, rfl⟩
    · next w hw =>
      refine .inr ⟨hf, w, ?_⟩
      cases hu : exec (decode s.cfg.decodeMode w) (beginExecute w s) with
      | next u =>
        rw [hu] at h
        simp only [finishCycle, Host.Outcome.next.injEq] at h
        refine ⟨u, hw, rfl, ?_⟩
        cases hfu : u.fault with
        | none => exact .inr ⟨rfl, by simpa [hfu] using h.symm⟩
        | some f => exact .inl ⟨by simp, by simpa [hfu] using h.symm⟩
      | fault r => rw [hu] at h; cases h
      | refused r => rw [hu] at h; cases h

/-- Everything DRW can do (R161): an address fault, a bounds fault, or the drawing of cells that all fit. -/
theorem execDrw_cases (x y n : Ix16) (s : State) :
    (∃ k, spriteRows s n = .error k ∧ execDrw x y n s = .next (raise k s)) ∨
    (∃ rows, spriteRows s n = .ok rows ∧ (∃ c ∈ spriteCells s x y rows, cellFits s.cfg.drawEdge c = false) ∧
      execDrw x y n s = .next (raise .drawOutOfBounds s)) ∨
    (∃ rows, spriteRows s n = .ok rows ∧ (∀ c ∈ spriteCells s x y rows, cellFits s.cfg.drawEdge c = true) ∧
      execDrw x y n s = .next (drawCells s (spriteCells s x y rows))) := by
  unfold execDrw
  cases h : spriteRows s n with
  | error k => exact .inl ⟨k, rfl, rfl⟩
  | ok rows =>
    right
    by_cases hall : (spriteCells s x y rows).all (cellFits s.cfg.drawEdge) = true
    · exact .inr ⟨rows, rfl, by simpa [List.all_eq_true] using hall, by simp [hall]⟩
    · exact .inl ⟨rows, rfl, by simpa [List.all_eq_true] using hall, by simp [hall]⟩

/-- A cell that fits lies inside the buffer under either value of DRAW_EDGE (D14). -/
theorem cellFits_bound {edge : DrawEdge} {c : Nat × Nat} (h : cellFits edge c = true) : cellIndex c.1 c.2 < dispCells := by
  cases edge
  · simpa [cellFits] using h
  · simp only [cellFits, Bool.and_eq_true, decide_eq_true_eq] at h
    simp only [cellIndex, dispCells, dispW, dispH] at *
    omega

theorem reg_drawCells (s : State) (cells : List (Nat × Nat)) (r : Ix16) (h : r ≠ vf) :
    (drawCells s cells).reg r = s.reg r := by
  show (s.setReg vf _).reg r = _
  rw [reg_setReg, if_neg h]

/-- What the drawing of cells leaves, where they all lie inside the buffer: exactly those pixels toggled, and VF whether one
of them was on (R161). -/
theorem drawCells_spec (s : State) (x y : Ix16) (rows : List Byte)
    (hb : ∀ c ∈ spriteCells s x y rows, cellIndex c.1 c.2 < dispCells) :
    (∀ l, pixel (drawCells s (spriteCells s x y rows)).disp l =
      (pixel s.disp l ^^ decide (l ∈ (spriteCells s x y rows).map (fun c => cellIndex c.1 c.2)))) ∧
    (drawCells s (spriteCells s x y rows)).reg vf =
      flagByte (((spriteCells s x y rows).map (fun c => cellIndex c.1 c.2)).any (fun l => pixel s.disp l)) := by
  have hb' : ∀ l ∈ (spriteCells s x y rows).map (fun c => cellIndex c.1 c.2), l < dispCells := by
    intro l hl; obtain ⟨c, hc, rfl⟩ := List.mem_map.1 hl; exact hb c hc
  obtain ⟨h1, h2⟩ := blit_spec _ s.disp false hb' (nodup_litCells_index _ _ rows)
  refine ⟨h1, ?_⟩
  show (s.setReg vf (flagByte (blit _ s.disp false).2)).reg vf = _
  rw [reg_setReg_same, h2, Bool.false_or]

/-- What skipping on a key can do (R170, R171, R173). -/
theorem skipOnKey_cases (level : Bool) (x : Ix16) (s : State) :
    (15 < (s.reg x).toNat ∧ skipOnKey level x s = .error .keyIndexOutOfRange) ∨
    (∃ k : Ix16, (s.reg x).toNat = k.val ∧ skipOnKey level x s = .ok (if s.key[k] = level then s.skip else s)) := by
  unfold skipOnKey
  cases h : keyIndex (s.reg x) with
  | error k => obtain ⟨rfl, hlt⟩ := keyIndex_error h; exact .inl ⟨hlt, rfl⟩
  | ok k => exact .inr ⟨k, keyIndex_ok.1 h, rfl⟩

/-- The least pressed key, when one is pressed (R172). -/
theorem leastKey_some {key : Vector Bool 16} {k : Ix16} (h : leastKey key = some k) :
    key[k] = true ∧ ∀ j : Ix16, j < k → key[j] = false := by
  have sorted : allIx.Pairwise (fun a b => a < b) := by decide
  have gen : ∀ l : List Ix16, l.Pairwise (fun a b => a < b) → l.find? (fun k => key[k]) = some k →
      key[k] = true ∧ ∀ j ∈ l, j < k → key[j] = false := by
    intro l
    induction l with
    | nil => intro _ h; cases h
    | cons a rest ih =>
      intro hs hf
      rw [List.pairwise_cons] at hs
      rw [List.find?_cons] at hf
      cases ha : key[a] with
      | true =>
        rw [ha] at hf; cases hf
        refine ⟨ha, fun j hj hlt => ?_⟩
        rcases List.mem_cons.1 hj with rfl | hj
        · exact absurd hlt (lt_irrefl _)
        · exact absurd (hs.1 j hj) (not_lt.2 (le_of_lt hlt))
      | false =>
        rw [ha] at hf
        obtain ⟨h1, h2⟩ := ih hs.2 hf
        refine ⟨h1, fun j hj hlt => ?_⟩
        rcases List.mem_cons.1 hj with rfl | hj
        · exact ha
        · exact h2 j hj hlt
  exact ⟨(gen _ sorted h).1, fun j hlt => (gen _ sorted h).2 j (mem_allIx j) hlt⟩

theorem leastKey_none {key : Vector Bool 16} (h : leastKey key = none) : ∀ j : Ix16, key[j] = false := by
  intro j
  have := List.find?_eq_none.1 h j (mem_allIx j)
  simpa using this

end Sys2Proof.Machine
end

