-- ==== Sys2Proof/Tests/Slice0.lean ====
section
/-!
SUPPORT. The model's own tests: ill-formed terms refused, one word per constructor written out from spec/30_encoding.md R83 and
decoded, single-step vectors of spec/95_test_vectors.md (their ids stand in the comments), and for every statement with
hypotheses a state and operands that meet them.
-/

namespace Sys2Proof.Tests

open Sys2Proof.Machine

/-! ### Helpers -/

/-- The default parameters with a chosen VF_ALIAS_ORDER, so that every test can be evaluated. -/
def cfg0 (order : VfAliasOrder := .flagLast) : Config :=
  ⟨.wrap, .keyed, .noOp, order, .vy, .raw, .defect, .linear⟩

/-- Every parameter at its other value. -/
def cfg1 : Config := ⟨.fault, .exact, .fault, .resultLast, .vx, .normalized, .fixed, .fault⟩

/-- Reset with some registers set and the given parameters. -/
def st (regs : List (Ix16 × Byte)) (cfg : Config := cfg0) : State :=
  { State.reset with v := putRegs State.reset.v regs, cfg := cfg }

/-- The state after one Cycle, if it is a next state. -/
def next (o : Host.Outcome State Fault Refusal) : Option State :=
  match o with
  | .next t => some t
  | .fault _ => none
  | .refused _ => none

/-- The state after one Cycle that fetches the word. -/
def after (s : State) (w : Nat) : Option State := next (step (s.withFetchWord 16 w))

/-! ### Well-formedness: the one check, that NOP's word is unmapped (R80) -/

theorem test_wf_refuses_mapped_nop :
    (Instr.nop 0x6105#16).wf .keyed = false ∧ (Instr.nop 0x0120#16).wf .keyed = false := by decide

theorem test_wf_refuses_alias_nop_only_in_its_mode :
    (Instr.nop 0x5011#16).wf .keyed = false ∧ (Instr.nop 0x5011#16).wf .exact = true := by decide

theorem test_wf_takes_unmapped_nop :
    (Instr.nop 0x8008#16).wf .keyed = true ∧ (Instr.nop 0x0123#16).wf .exact = true := by decide

/-! ### One word per constructor, written out from R83 -/

theorem test_decode_cls :
    decode .keyed 0x00E0#16 = .cls ∧ decode .exact 0x00E0#16 = .cls ∧ encode .cls = 0x00E0#16 := by decide

theorem test_decode_ret :
    decode .keyed 0x00EE#16 = .ret ∧ decode .exact 0x00EE#16 = .ret ∧ encode .ret = 0x00EE#16 := by decide

theorem test_decode_jp :
    decode .keyed 0x1234#16 = .jp 0x234#12 ∧ decode .exact 0x1234#16 = .jp 0x234#12 ∧ encode (.jp 0x234#12) = 0x1234#16 := by decide

theorem test_decode_call :
    decode .keyed 0x2300#16 = .call 0x300#12 ∧ decode .exact 0x2300#16 = .call 0x300#12 ∧ encode (.call 0x300#12) = 0x2300#16 := by decide

theorem test_decode_seImm :
    decode .keyed 0x3310#16 = .seImm 3 0x10#8 ∧ decode .exact 0x3310#16 = .seImm 3 0x10#8 ∧ encode (.seImm 3 0x10#8) = 0x3310#16 := by decide

theorem test_decode_sneImm :
    decode .keyed 0x4311#16 = .sneImm 3 0x11#8 ∧ decode .exact 0x4311#16 = .sneImm 3 0x11#8 ∧ encode (.sneImm 3 0x11#8) = 0x4311#16 := by decide

theorem test_decode_seReg :
    decode .keyed 0x5010#16 = .seReg 0 1 ∧ decode .exact 0x5010#16 = .seReg 0 1 ∧ encode (.seReg 0 1) = 0x5010#16 := by decide

theorem test_decode_ldImm :
    decode .keyed 0x6105#16 = .ldImm 1 0x05#8 ∧ decode .exact 0x6105#16 = .ldImm 1 0x05#8 ∧ encode (.ldImm 1 0x05#8) = 0x6105#16 := by decide

theorem test_decode_addImm :
    decode .keyed 0x7201#16 = .addImm 2 0x01#8 ∧ decode .exact 0x7201#16 = .addImm 2 0x01#8 ∧ encode (.addImm 2 0x01#8) = 0x7201#16 := by decide

theorem test_decode_ldReg :
    decode .keyed 0x8010#16 = .ldReg 0 1 ∧ decode .exact 0x8010#16 = .ldReg 0 1 ∧ encode (.ldReg 0 1) = 0x8010#16 := by decide

theorem test_decode_orReg :
    decode .keyed 0x8AB1#16 = .orReg 10 11 ∧ decode .exact 0x8AB1#16 = .orReg 10 11 ∧ encode (.orReg 10 11) = 0x8AB1#16 := by decide

theorem test_decode_andReg :
    decode .keyed 0x8AB2#16 = .andReg 10 11 ∧ decode .exact 0x8AB2#16 = .andReg 10 11 ∧ encode (.andReg 10 11) = 0x8AB2#16 := by decide

theorem test_decode_xorReg :
    decode .keyed 0x8AB3#16 = .xorReg 10 11 ∧ decode .exact 0x8AB3#16 = .xorReg 10 11 ∧ encode (.xorReg 10 11) = 0x8AB3#16 := by decide

theorem test_decode_addReg :
    decode .keyed 0x8014#16 = .addReg 0 1 ∧ decode .exact 0x8014#16 = .addReg 0 1 ∧ encode (.addReg 0 1) = 0x8014#16 := by decide

theorem test_decode_sub :
    decode .keyed 0x8F15#16 = .sub 15 1 ∧ decode .exact 0x8F15#16 = .sub 15 1 ∧ encode (.sub 15 1) = 0x8F15#16 := by decide

theorem test_decode_shr :
    decode .keyed 0x8206#16 = .shr 2 0 ∧ decode .exact 0x8206#16 = .shr 2 0 ∧ encode (.shr 2 0) = 0x8206#16 := by decide

theorem test_decode_subn :
    decode .keyed 0x80F7#16 = .subn 0 15 ∧ decode .exact 0x80F7#16 = .subn 0 15 ∧ encode (.subn 0 15) = 0x80F7#16 := by decide

theorem test_decode_shl :
    decode .keyed 0x812E#16 = .shl 1 2 ∧ decode .exact 0x812E#16 = .shl 1 2 ∧ encode (.shl 1 2) = 0x812E#16 := by decide

theorem test_decode_sneReg :
    decode .keyed 0x9010#16 = .sneReg 0 1 ∧ decode .exact 0x9010#16 = .sneReg 0 1 ∧ encode (.sneReg 0 1) = 0x9010#16 := by decide

theorem test_decode_ldI :
    decode .keyed 0xA300#16 = .ldI 0x300#12 ∧ decode .exact 0xA300#16 = .ldI 0x300#12 ∧ encode (.ldI 0x300#12) = 0xA300#16 := by decide

theorem test_decode_jpV0 :
    decode .keyed 0xBFFF#16 = .jpV0 0xFFF#12 ∧ decode .exact 0xBFFF#16 = .jpV0 0xFFF#12 ∧ encode (.jpV0 0xFFF#12) = 0xBFFF#16 := by decide

theorem test_decode_rnd :
    decode .keyed 0xC30F#16 = .rnd 3 0x0F#8 ∧ decode .exact 0xC30F#16 = .rnd 3 0x0F#8 ∧ encode (.rnd 3 0x0F#8) = 0xC30F#16 := by decide

theorem test_decode_drw :
    decode .keyed 0xDA05#16 = .drw 10 0 5 ∧ decode .exact 0xDA05#16 = .drw 10 0 5 ∧ encode (.drw 10 0 5) = 0xDA05#16 := by decide

theorem test_decode_skp :
    decode .keyed 0xE19E#16 = .skp 1 ∧ decode .exact 0xE19E#16 = .skp 1 ∧ encode (.skp 1) = 0xE19E#16 := by decide

theorem test_decode_sknp :
    decode .keyed 0xE1A1#16 = .sknp 1 ∧ decode .exact 0xE1A1#16 = .sknp 1 ∧ encode (.sknp 1) = 0xE1A1#16 := by decide

theorem test_decode_ldVxDt :
    decode .keyed 0xF107#16 = .ldVxDt 1 ∧ decode .exact 0xF107#16 = .ldVxDt 1 ∧ encode (.ldVxDt 1) = 0xF107#16 := by decide

theorem test_decode_ldVxK :
    decode .keyed 0xF20A#16 = .ldVxK 2 ∧ decode .exact 0xF20A#16 = .ldVxK 2 ∧ encode (.ldVxK 2) = 0xF20A#16 := by decide

theorem test_decode_ldDtVx :
    decode .keyed 0xF015#16 = .ldDtVx 0 ∧ decode .exact 0xF015#16 = .ldDtVx 0 ∧ encode (.ldDtVx 0) = 0xF015#16 := by decide

theorem test_decode_ldStVx :
    decode .keyed 0xF418#16 = .ldStVx 4 ∧ decode .exact 0xF418#16 = .ldStVx 4 ∧ encode (.ldStVx 4) = 0xF418#16 := by decide

theorem test_decode_addI :
    decode .keyed 0xF51E#16 = .addI 5 ∧ decode .exact 0xF51E#16 = .addI 5 ∧ encode (.addI 5) = 0xF51E#16 := by decide

theorem test_decode_ldF :
    decode .keyed 0xF329#16 = .ldF 3 ∧ decode .exact 0xF329#16 = .ldF 3 ∧ encode (.ldF 3) = 0xF329#16 := by decide

theorem test_decode_ldB :
    decode .keyed 0xF033#16 = .ldB 0 ∧ decode .exact 0xF033#16 = .ldB 0 ∧ encode (.ldB 0) = 0xF033#16 := by decide

theorem test_decode_ldMemVx :
    decode .keyed 0xF255#16 = .ldMemVx 2 ∧ decode .exact 0xF255#16 = .ldMemVx 2 ∧ encode (.ldMemVx 2) = 0xF255#16 := by decide

theorem test_decode_ldVxMem :
    decode .keyed 0xFF65#16 = .ldVxMem 15 ∧ decode .exact 0xFF65#16 = .ldVxMem 15 ∧ encode (.ldVxMem 15) = 0xFF65#16 := by decide

theorem test_decode_nop :
    decode .keyed 0x800F#16 = .nop 0x800F#16 ∧ decode .exact 0x800F#16 = .nop 0x800F#16 ∧ encode (.nop 0x800F#16) = 0x800F#16 := by decide

/-- Scenario A's first word, and a truncated stream. -/
theorem test_decode_bytes :
    (decodeBytes .keyed [0x60#8, 0x0A#8, 0x61#8]).toOption = some (.ldImm 0 0x0A#8, [0x61#8]) ∧ (decodeBytes .keyed [0x60#8]).toOption = none := by decide

theorem test_decodeTableWord :
    decodeTableWord 16 0xD005 = some (.drw 0 0 5) := by decide

/-! ### Single steps (spec/95_test_vectors.md 2.2 to 2.7) -/

/-- CF1. -/
theorem test_ret :
    (after { st [] with sp := 1, stack := State.reset.stack.set 0 0x0206#16 } 0x00EE).map (fun s => (s.sp, s.pc)) = some (0x00#8, 0x0206#16) := by decide

/-- CF2. -/
theorem test_ret_underflow :
    (after (st []) 0x00EE).map (fun s => (s.fault, s.pc, s.sp)) = some (some ⟨.stackUnderflow, 0x200#16, some 0x00EE#16⟩, 0x202#16, 0x00#8) := by decide

/-- CF6. -/
theorem test_jp_odd :
    (after (st []) 0x1203).map (fun s => s.pc) = some 0x0203#16 := by decide

/-- CF7. -/
theorem test_call :
    (after (st []) 0x2300).map (fun s => (s.stack[0], s.sp, s.pc)) = some (0x0202#16, 0x01#8, 0x0300#16) := by decide

/-- CF8. -/
theorem test_call_overflow :
    (after { st [] with sp := 16 } 0x2300).map (fun s => (s.fault, s.pc, s.sp)) = some (some ⟨.stackOverflow, 0x200#16, some 0x2300#16⟩, 0x202#16, 0x10#8) := by decide

/-- CF9. -/
theorem test_seImm_taken :
    (after (st [(3, 0x10#8)]) 0x3310).map (fun s => s.pc) = some 0x204#16 := by decide

/-- CF10. -/
theorem test_seImm_not_taken :
    (after (st [(3, 0x10#8)]) 0x3311).map (fun s => s.pc) = some 0x202#16 := by decide

/-- CF11. -/
theorem test_sneImm_taken :
    (after (st [(3, 0x10#8)]) 0x4311).map (fun s => s.pc) = some 0x204#16 := by decide

/-- CF12. -/
theorem test_sneImm_not_taken :
    (after (st [(3, 0x10#8)]) 0x4310).map (fun s => s.pc) = some 0x202#16 := by decide

/-- CF14. -/
theorem test_seReg_alias_keyed :
    (after (st [(0, 0x05#8), (1, 0x05#8)]) 0x5011).map (fun s => s.pc) = some 0x204#16 := by decide

/-- CF15, with UNMAPPED_POLICY = NoOp. -/
theorem test_seReg_alias_exact :
    (after (st [(0, 0x05#8), (1, 0x05#8)] { cfg0 with decodeMode := .exact }) 0x5011).map (fun s => s.pc) = some 0x202#16 := by decide

/-- CF17. -/
theorem test_sneReg :
    (after (st [(0, 0x04#8), (1, 0x05#8)]) 0x9010).map (fun s => s.pc) = some 0x204#16 := by decide

/-- CF21. -/
theorem test_jpV0 :
    (after (st [(0, 0xFF#8)]) 0xBFFF).map (fun s => s.pc) = some 0x10FE#16 := by decide

/-- CF24. -/
theorem test_nop :
    (after (st []) 0x8008).map (fun s => (s.pc, s.fault)) = some (0x202#16, none) := by decide

/-- CF27. -/
theorem test_nop_fault :
    (after (st [] { cfg0 with unmappedPolicy := .fault }) 0x8008).map (fun s => (s.fault, s.pc)) = some (some ⟨.unmappedOpcode, 0x200#16, some 0x8008#16⟩, 0x202#16) := by decide

/-- A1. -/
theorem test_ldImm_vf :
    (after (st []) 0x6FAB).map (fun s => s.reg 15) = some 0xAB#8 := by decide

/-- A2. -/
theorem test_addImm_no_flag :
    (after (st [(2, 0xFF#8), (15, 0x05#8)]) 0x7201).map (fun s => (s.reg 2, s.reg 15)) = some (0x00#8, 0x05#8) := by decide

/-- A4. -/
theorem test_ldReg :
    (after (st [(1, 0x33#8)]) 0x8010).map (fun s => s.reg 0) = some 0x33#8 := by decide

/-- A5. -/
theorem test_orReg :
    (after (st [(0, 0xF0#8), (1, 0x0F#8)]) 0x8011).map (fun s => s.reg 0) = some 0xFF#8 := by decide

/-- A6. -/
theorem test_andReg :
    (after (st [(0, 0xF0#8), (1, 0x3C#8)]) 0x8012).map (fun s => s.reg 0) = some 0x30#8 := by decide

/-- A7. -/
theorem test_xorReg :
    (after (st [(0, 0xF0#8), (1, 0x3C#8)]) 0x8013).map (fun s => s.reg 0) = some 0xCC#8 := by decide

/-- A10. -/
theorem test_addReg_carry :
    (after (st [(0, 0xF0#8), (1, 0x20#8)]) 0x8014).map (fun s => (s.reg 0, s.reg 15)) = some (0x10#8, 0x01#8) := by decide

/-- A15. -/
theorem test_addReg_vf_is_addend :
    (after (st [(0, 0x01#8), (15, 0x02#8)]) 0x80F4).map (fun s => (s.reg 0, s.reg 15)) = some (0x03#8, 0x00#8) := by decide

/-- A21, ResultLast. -/
theorem test_sub_alias_resultLast :
    (after (st [(15, 0x05#8), (1, 0x03#8)] (cfg0 .resultLast)) 0x8F15).map (fun s => s.reg 15) = some 0x02#8 := by decide

/-- A17. -/
theorem test_sub_equal :
    (after (st [(0, 0x10#8), (1, 0x10#8)]) 0x8015).map (fun s => (s.reg 0, s.reg 15)) = some (0x00#8, 0x01#8) := by decide

/-- A26. -/
theorem test_shr_ignores_y :
    (after (st [(2, 0x03#8), (5, 0x99#8)]) 0x8256).map (fun s => (s.reg 2, s.reg 15, s.reg 5)) = some (0x01#8, 0x01#8, 0x99#8) := by decide

/-- A28, Vy. -/
theorem test_subn_vy :
    (after (st [(0, 0x05#8), (1, 0x10#8)]) 0x8017).map (fun s => (s.reg 1, s.reg 0, s.reg 15)) = some (0x0B#8, 0x05#8, 0x01#8) := by decide

/-- A28, Vx. -/
theorem test_subn_vx :
    (after (st [(0, 0x05#8), (1, 0x10#8)] { cfg0 with subnDest := .vx }) 0x8017).map (fun s => (s.reg 0, s.reg 1, s.reg 15)) = some (0x0B#8, 0x10#8, 0x01#8) := by decide

/-- A32, Raw. -/
theorem test_shl_raw :
    (after (st [(2, 0x81#8)]) 0x820E).map (fun s => (s.reg 2, s.reg 15)) = some (0x02#8, 0x80#8) := by decide

/-- A32, Normalized. -/
theorem test_shl_normalized :
    (after (st [(2, 0x81#8)] { cfg0 with shlFlag := .normalized }) 0x820E).map (fun s => (s.reg 2, s.reg 15)) = some (0x02#8, 0x01#8) := by decide

/-- A37 and A39: the meaning of RND on the draw 0xB7. -/
theorem test_rnd_masks_the_draw :
    ((rndWith 0xB7#8 3 0x0F#8 (st [])).reg 3, (rndWith 0xB7#8 3 0xFF#8 (st [])).reg 3) = (0x07#8, 0xB7#8) := by decide

/-- R133 (2). -/
theorem test_rnd_counts_one_draw :
    (after (st []) 0xC30F).map (fun s => (s.draws, s.pc)) = some (1, 0x202#16) := by decide

/-- M2. -/
theorem test_ldI :
    (after (st []) 0xAFFF).map (fun s => s.i) = some 0x0FFF#16 := by decide

/-- M5. -/
theorem test_addI_wraps_at_16_bits :
    (after { st [(0, 0x02#8)] with i := 0xFFFF#16 } 0xF01E).map (fun s => s.i) = some 0x0001#16 := by decide

/-- M4. -/
theorem test_addI_not_at_12 :
    (after { st [(0, 0x01#8)] with i := 0x0FFF#16 } 0xF01E).map (fun s => s.i) = some 0x1000#16 := by decide

/-- M6. -/
theorem test_ldF_above_15 :
    (after (st [(3, 0xFF#8)]) 0xF329).map (fun s => s.i) = some 0x054B#16 := by decide

/-- M7, 254 under Defect. -/
theorem test_ldB_defect :
    (after { st [(0, 0xFE#8)] with i := 0x300#16, mem := (State.reset.mem.writeAll [(0x300, 0xAA#8), (0x301, 0xAA#8), (0x302, 0xAA#8)]) } 0xF033).map (fun s => [0x300, 0x301, 0x302].map s.mem.read) = some [0xAA#8, 0x05#8, 0x02#8] := by decide

/-- M7, 123 under Fixed. -/
theorem test_ldB_fixed :
    (after { st [(0, 0x7B#8)] { cfg0 with bcdMode := .fixed } with i := 0x300#16, mem := (State.reset.mem.writeAll [(0x300, 0xAA#8), (0x301, 0xAA#8), (0x302, 0xAA#8)]) } 0xF033).map (fun s => [0x300, 0x301, 0x302].map s.mem.read) = some [0x01#8, 0x02#8, 0x03#8] := by decide

/-- M9. -/
theorem test_ldMemVx :
    (after { st [(0, 0x01#8), (1, 0x02#8), (2, 0x03#8)] with i := 0x300#16 } 0xF255).map (fun s => ([0x300, 0x301, 0x302, 0x303].map s.mem.read, s.i)) = some ([0x01#8, 0x02#8, 0x03#8, 0x00#8], 0x300#16) := by decide

/-- M11b. -/
theorem test_ldMemVx_fault :
    (after { st [(0, 0x11#8), (1, 0x22#8)] { cfg0 with addrPolicy := .fault } with i := 0x0FFF#16 } 0xF155).map (fun s => (s.fault, s.mem.read 0xFFF)) = some (some ⟨.addressOutOfRange, 0x200#16, some 0xF155#16⟩, 0x00#8) := by decide

/-- M12. -/
theorem test_ldVxMem :
    (after { st [] with i := 0x300#16, mem := State.reset.mem.writeAll [(0x301, 0x05#8), (0x302, 0x02#8)] } 0xF265).map (fun s => (s.reg 0, s.reg 1, s.reg 2, s.i)) = some (0x00#8, 0x05#8, 0x02#8, 0x300#16) := by decide

/-- R145 (3): the reads may come from the font. -/
theorem test_ldVxMem_font :
    (after { st [] with i := 0x50#16 } 0xF165).map (fun s => (s.reg 0, s.reg 1, s.reg 2)) = some (0xF0#8, 0x90#8, 0x00#8) := by decide

/-- D1. -/
theorem test_cls :
    (after { st [] with disp := Vector.replicate 32 0xFFFF#64 } 0x00E0).map (fun s => [0, 5, 63, 64, 2047].map (pixel s.disp)) = some [false, false, false, false, false] := by decide

/-- D2. -/
theorem test_drw_glyph :
    (after { st [] with i := 0x50#16 } 0xD005).map (fun s => (s.disp[0], s.disp[1], s.disp[4], s.disp[5], s.reg 15)) =
      some (0xF#64, 0x9#64, 0xF#64, 0#64, 0x00#8) := by decide

/-- D6 over a lit pixel 62: it is erased, VF is 1, and the row that does not fit goes on in the next one. -/
theorem test_drw_linear_edge :
    (after { st [(0, 0x3E#8)] with i := 0x50#16, disp := State.reset.disp.set 0 (1#64 <<< 62) } 0xD011).map
      (fun s => (s.disp[0], s.disp[1], s.reg 15)) = some (1#64 <<< 63, 3#64, 0x01#8) := by decide

/-- K3. -/
theorem test_skp_fault :
    (after (st [(1, 0x10#8)]) 0xE19E).map (fun s => (s.fault, s.pc)) = some (some ⟨.keyIndexOutOfRange, 0x200#16, some 0xE19E#16⟩, 0x202#16) := by decide

/-- K1. -/
theorem test_skp :
    (after { st [(1, 0x05#8)] with key := State.reset.key.set 5 true } 0xE19E).map (fun s => s.pc) = some 0x204#16 := by decide

/-- K5. -/
theorem test_sknp_pressed :
    (after { st [(1, 0x05#8)] with key := State.reset.key.set 5 true } 0xE1A1).map (fun s => s.pc) = some 0x202#16 := by decide

/-- K4. -/
theorem test_sknp :
    (after (st [(1, 0x05#8)]) 0xE1A1).map (fun s => s.pc) = some 0x204#16 := by decide

/-- T1. -/
theorem test_ldVxDt :
    (after { st [] with dt := 2 } 0xF107).map (fun s => (s.reg 1, s.dt)) = some (0x02#8, 0x01#8) := by decide

/-- K7. -/
theorem test_ldVxK_lowest :
    (after { st [] with pc := 0x210#16, key := (State.reset.key.set 3 true).set 9 true } 0xF20A).map (fun s => (s.reg 2, s.pc)) = some (0x03#8, 0x212#16) := by decide

/-- K9. -/
theorem test_ldVxK_waits :
    (after { st [] with pc := 0x210#16, dt := 5, st := 1 } 0xF20A).map (fun s => (s.pc, s.dt, s.st, s.tone, s.toneCount)) = some (0x210#16, 0x04#8, 0x00#8, true, 1) := by decide

/-- T3. -/
theorem test_ldDtVx :
    (after (st [(0, 0x03#8)]) 0xF015).map (fun s => s.dt) = some 0x02#8 := by decide

/-- T5. -/
theorem test_ldStVx_tone :
    (after (st [(4, 0x01#8)]) 0xF418).map (fun s => (s.st, s.tone, s.toneCount)) = some (0x00#8, true, 1) := by decide

/-- T7. -/
theorem test_ldStVx_silences :
    (after { st [] with st := 5 } 0xF418).map (fun s => (s.st, s.tone)) = some (0x00#8, false) := by decide

/-! ### The cycle driver (spec/95_test_vectors.md 2.2) -/

/-- CY1. -/
theorem test_fetch_wraps :
    (next (step { st [] with pc := 0x0FFF#16, mem := State.reset.mem.writeAll [(0xFFF, 0x12#8), (0, 0x34#8)] })).map (fun s => (s.ir, s.pc)) = some (0x1234#16, 0x0234#16) := by decide

/-- CY2. -/
theorem test_fetch_fault :
    (next (step { st [] { cfg0 with addrPolicy := .fault } with pc := 0x0FFF#16 })).map (fun s => (s.fault, s.pc, s.ir)) = some (some ⟨.addressOutOfRange, 0x0FFF#16, none⟩, 0x0FFF#16, 0x0000#16) := by decide

/-- CY5. -/
theorem test_halted :
    next (step { st [] with fault := some ⟨.stackUnderflow, 0x200#16, some 0x00EE#16⟩, dt := 3 }) = some { st [] with fault := some ⟨.stackUnderflow, 0x200#16, some 0x00EE#16⟩, dt := 3 } := by decide

/-- CY8. -/
theorem test_no_tick_on_fault :
    (after { st [] with dt := 3, st := 2 } 0x00EE).map (fun s => (s.dt, s.st, s.pc)) = some (0x03#8, 0x02#8, 0x202#16) := by decide

/-- Log entry 5: the model's own stop, with an SP no run reaches. -/
theorem test_stack_entry_absent :
    exec .ret { st [] with sp := 17 } = .fault .stackEntryAbsent ∧ exec (.call 0) { st [] with sp := 17 } = .fault .stackEntryAbsent := ⟨rfl, rfl⟩

/-- 95_test_vectors.md 1.5, n = 1: the empty program area executes 0000, CLS. -/
theorem test_reset_fetches_cls :
    (next (step (st []))).map (fun s => (s.pc, s.ir, s.fault)) = some (0x202#16, 0x0000#16, none) := by decide

/-- R222, R224. -/
theorem test_launch :
    (State.launch [0x60#8, 0x0A#8]).map (fun s => [0x1FF, 0x200, 0x201, 0x202].map s.mem.read) = some [0x00#8, 0x60#8, 0x0A#8, 0x00#8] := by decide

/-- Writing what is read anyway lists nothing. -/
theorem writeAll_blank (ws : List (Nat × Byte)) (h : ∀ w ∈ ws, w.2 = Memory.blank w.1) : Memory.writeAll [] ws = [] := by
  induction ws with
  | nil => rfl
  | cons w ws ih =>
    have hw : Memory.write [] w.1 w.2 = [] := by simp [Memory.write, h w (by simp), Memory.erase]
    simpa only [Memory.writeAll, List.foldl_cons, hw] using ih (fun v hv => h v (by simp [hv]))

/-- R7, R221: constructing with the default parameters and FONT is reset, and memory lists nothing. -/
theorem test_construct_default_font :
    State.construct defaultConfig ⟨fontTable.toArray, by decide⟩ = State.reset := by
  simp only [State.construct]
  rw [writeAll_blank _ (by decide)]
  rfl

/-- FONT as a parameter (R7, D25): its bytes lie from FONT_BASE on. -/
theorem test_font_layout :
    bytesFrom fontBase [0x11#8, 0x22#8] = [(0x50, 0x11#8), (0x51, 0x22#8)] := by decide

/-- R190. -/
theorem test_fault_codes :
    [FaultKind.stackOverflow, .stackUnderflow, .keyIndexOutOfRange, .drawOutOfBounds, .addressOutOfRange, .unmappedOpcode].map FaultKind.code = [1, 2, 3, 4, 5, 6] := by decide

/-! ### Witnesses: for every statement with hypotheses, inputs that meet them -/

/-- Reset with a word placed at 0x200 and the parameters of `cfg0`. -/
def at200 (w : Nat) (s : State := st []) : State := s.withFetchWord 16 w

/-- V0 = 63 and V1 = 31: the last cell of the grid, L = 2047. -/
def corner (i : Word) (cfg : Config := cfg0) : State :=
  { st [(0, 0x3F#8), (1, 0x1F#8)] cfg with i := i, mem := State.reset.mem.writeAll [(0x300, 0x80#8), (0x301, 0x40#8)] }

theorem witness_DecodeEncode :
    (Instr.nop 0x800F#16).wf .keyed = true ∧ (Instr.drw 0 15 5).wf .exact = true := by decide

theorem witness_TableRowDecides :
    (decode .keyed 0x5011#16).row ∈ tableRows ∧ (decode .keyed 0x5011#16).row.selects .keyed 0x5011#16 = true := by decide

theorem witness_StandardWordsAgree :
    decode .exact 0x00E0#16 ≠ .nop 0x00E0#16 := by decide

theorem witness_StepRunsTheDecodedInstruction_next :
    (at200 0x6A05).fault = none ∧ fetch (at200 0x6A05) = .ok 0x6A05#16 ∧
    ∃ u, exec (decode .keyed 0x6A05#16) { at200 0x6A05 with tone := false, ir := 0x6A05#16, pc := 0x202#16 } = .next u ∧
      u.fault = none := ⟨rfl, rfl, _, rfl, rfl⟩

theorem witness_StepRunsTheDecodedInstruction_faulted :
    (at200 0x00EE).fault = none ∧ fetch (at200 0x00EE) = .ok 0x00EE#16 ∧
    ∃ u, exec (decode .keyed 0x00EE#16) { at200 0x00EE with tone := false, ir := 0x00EE#16, pc := 0x202#16 } = .next u ∧
      u.fault ≠ none := ⟨rfl, rfl, _, rfl, by decide⟩

theorem witness_StepRunsTheDecodedInstruction_stopped :
    fetch (at200 0x00EE { st [] with sp := 17 }) = .ok 0x00EE#16 ∧
    exec .ret { at200 0x00EE { st [] with sp := 17 } with tone := false, ir := 0x00EE#16, pc := 0x202#16 } =
      .fault .stackEntryAbsent := ⟨rfl, rfl⟩

/-- The two clauses at their boundary: PC = 0xFFE has both bytes, PC = 0xFFF only under Wrap. -/
theorem witness_FetchIsBigEndian :
    (0xFFE#16).toNat + 1 ≤ 0xFFF ∧ (st []).cfg.addrPolicy = .wrap ∧
    (st [] cfg1).cfg.addrPolicy = .fault ∧ 0xFFF < (0xFFF#16).toNat + 1 := by decide

theorem witness_FetchFault :
    { st [] cfg1 with pc := 0xFFF#16 }.fault = none ∧ fetch { st [] cfg1 with pc := 0xFFF#16 } = .error .addressOutOfRange :=
  ⟨rfl, rfl⟩

theorem witness_HaltedCycleChangesNothing :
    { st [] with fault := some ⟨.stackUnderflow, 0x200#16, some 0x00EE#16⟩, tone := true }.fault ≠ none := by decide

theorem witness_PhysMapping :
    0xFFF < 4096 ∧ ¬ 4096 ≤ 0xFFF ∧ 4096 ≤ 0x1000 ∧ ¬ 0x1000 < 4096 := by decide

/-- ST = 1 before the decrement and ST = 0. -/
theorem witness_TimersCountCycles :
    (Runs (.ldStVx 4) (at200 0xF418 (st [(4, 1)])) ∧
      ∃ t, step (at200 0xF418 (st [(4, 1)])) = .next t ∧ t.fault = none) ∧
    soundBeforeTick (.ldStVx 4) (at200 0xF418 (st [(4, 1)])) = 1 ∧
    (Runs (.ldDtVx 0) (at200 0xF015) ∧ ∃ t, step (at200 0xF015) = .next t ∧ t.fault = none) ∧
    soundBeforeTick (.ldDtVx 0) (at200 0xF015) = 0 :=
  ⟨⟨⟨rfl, _, rfl, rfl⟩, _, rfl, rfl⟩, rfl, ⟨⟨rfl, _, rfl, rfl⟩, _, rfl, rfl⟩, rfl⟩

theorem witness_PcMovement :
    Runs (.ldVxK 2) (at200 0xF20A) ∧ ∃ t, step (at200 0xF20A) = .next t ∧ t.fault = none :=
  ⟨⟨rfl, _, rfl, rfl⟩, _, rfl, rfl⟩

theorem witness_PreciseFaults_fetch :
    ∃ t f, step { st [] cfg1 with pc := 0xFFF#16 } = .next t ∧ t.fault = some f ∧ f.word = none := ⟨_, _, rfl, rfl, rfl⟩

theorem witness_PreciseFaults_execute :
    ∃ t f, (at200 0x00EE).fault = none ∧ step (at200 0x00EE) = .next t ∧ t.fault = some f ∧ f.word = some 0x00EE#16 :=
  ⟨_, _, rfl, rfl, rfl, rfl⟩

/-- SP at both ends of its range, under the default policies. -/
theorem witness_DefaultFaults :
    (at200 0x00EE).sp.toNat ≤ 16 ∧ DefaultFault .ret (at200 0x00EE) ∧
    { st [] with sp := 16 }.sp.toNat ≤ 16 ∧ ¬ DefaultFault .ret { st [] with sp := 16 } ∧
    (at200 0x00EE).cfg = ⟨.wrap, .keyed, .noOp, .flagLast, .vy, .raw, .defect, .linear⟩ :=
  ⟨by decide, rfl, by decide, by simp [DefaultFault], rfl⟩

/-- A faulted state with a full stack and a stored byte. -/
theorem witness_InvKept :
    Inv { st [] with sp := 16, mem := [(0x300, 0x01#8)], fault := some ⟨.stackOverflow, 0x200#16, some 0x2300#16⟩ } where
  memWf := by decide
  spRange := by decide
  faultLegal := by rintro f ⟨⟩; exact ⟨nofun, nofun, nofun⟩
  quietFault := by intro _; rfl

theorem witness_LaunchState :
    (List.replicate 3584 0x60#8).length ≤ 3584 ∧ 3584 < (List.replicate 3585 0x60#8).length := by
  simp only [List.length_replicate]; omega

/-- The first and the last byte of FONT, and the addresses on both sides of it. -/
theorem witness_ConstructState :
    0 < 80 ∧ 79 < 80 ∧ 0x04F < 0x050 ∧ 0x050 + 79 + 1 = 0x0A0 ∧ 0x0A0 ≤ 0x0A0 := by decide

theorem witness_OnlyNamedWriters :
    (∃ t, exec (.ldMemVx 15) (st []) = .next t) ∧ Part.display ∉ partsWritten (.ldMemVx 15) := ⟨⟨_, rfl⟩, by decide⟩

/-- Both destinations of SUBN. -/
theorem witness_RegistersWritten :
    (∃ t, exec (.subn 0 1) (st []) = .next t) ∧ (0 : Ix16) ∉ regsWritten (st []).cfg (.subn 0 1) ∧
    (∃ t, exec (.subn 0 1) (st [] cfg1) = .next t) ∧ (1 : Ix16) ∉ regsWritten (st [] cfg1).cfg (.subn 0 1) :=
  ⟨⟨_, rfl⟩, by decide, ⟨_, rfl⟩, by decide⟩

theorem witness_SoundAndToneAreNotRead :
    (∀ x, Instr.ldVxDt 0 ≠ .ldStVx x) ∧ ∃ t, exec (.ldVxDt 0) (st []) = .next t := ⟨nofun, _, rfl⟩

/-- A run of each of the five clauses, the destination at its last value below VF; SUBN with VF as the register it only reads,
under both destinations. -/
theorem witness_FlagValues :
    (14 : Ix16) ≠ vf ∧ (∃ t, exec (.addReg 14 15) (st []) = .next t) ∧ (∃ t, exec (.sub 14 15) (st []) = .next t) ∧
    (∃ t, exec (.shr 14 15) (st []) = .next t) ∧
    ((∃ t, exec (.subn 15 14) (st []) = .next t) ∧ (st []).cfg.subnDest = .vy) ∧
    ((∃ t, exec (.subn 14 15) (st [] cfg1) = .next t) ∧ (st [] cfg1).cfg.subnDest = .vx) ∧
    (∃ t, exec (.drw 0 1 1) (corner 0x300) = .next t ∧ t.fault = none) ∧
    ((∃ t, exec (.shl 14 15) (st [] cfg1) = .next t) ∧ (st [] cfg1).cfg.shlFlag = .normalized) ∧
    (∃ t, exec (.shl 14 15) (st []) = .next t) ∧ (st []).cfg.shlFlag = .raw :=
  ⟨by decide, ⟨_, rfl⟩, ⟨_, rfl⟩, ⟨_, rfl⟩, ⟨⟨_, rfl⟩, rfl⟩, ⟨⟨_, rfl⟩, rfl⟩, ⟨_, rfl, rfl⟩, ⟨⟨_, rfl⟩, rfl⟩, ⟨_, rfl⟩, rfl⟩

/-- The last free entry of the stack, and none. -/
theorem witness_CallResult :
    { st [] with sp := 15 }.sp.toNat = (15 : Ix16).val ∧ { st [] with sp := 0 }.sp.toNat = (0 : Ix16).val ∧
    { st [] with sp := 16 }.sp = 16 := by decide

theorem witness_ReturnResult :
    { st [] with sp := 16 }.sp.toNat = (15 : Ix16).val + 1 ∧ { st [] with sp := 1 }.sp.toNat = (0 : Ix16).val + 1 ∧
    (st []).sp = 0 := by decide

theorem witness_CallReturnRoundTrip :
    { st [] with sp := 15 }.sp.toNat = (15 : Ix16).val ∧
    ∃ t u : State, exec (.call 0x300) { st [] with sp := 15 } = .next t ∧ u.sp = t.sp ∧ u.stack[15] = t.stack[15] :=
  ⟨by decide, _, _, rfl, rfl, rfl⟩

theorem witness_NopResult :
    (st []).cfg.unmappedPolicy = .noOp ∧ (st [] cfg1).cfg.unmappedPolicy = .fault := by decide

theorem witness_SubnResult :
    (st []).cfg.subnDest = .vy ∧ (st [] cfg1).cfg.subnDest = .vx := by decide

theorem witness_ShiftLeftResult :
    (st []).cfg.shlFlag = .raw ∧ (st [] cfg1).cfg.shlFlag = .normalized := by decide

/-- Both aliases of SUB's VF, at both orders of VF_ALIAS_ORDER. -/
theorem witness_ResultFlag :
    (15 : Ix16) = vf ∧ (st []).cfg.vfAliasOrder = .flagLast ∧ (st [] (cfg0 .resultLast)).cfg.vfAliasOrder = .resultLast := by
  decide

/-- Under Fault, I + 2 at the last address and past it; both modes of BCD. -/
theorem witness_BcdResult :
    AddrsOk { st [] cfg1 with i := 0xFFD#16 } 2 ∧ ¬ AddrsOk { st [] cfg1 with i := 0xFFE#16 } 2 ∧ AddrsOk (st []) 2 ∧
    (st [] cfg1).cfg.bcdMode = .fixed ∧ (st []).cfg.bcdMode = .defect ∧
    phys .fault (indexAddr { st [] cfg1 with i := 0xFFD#16 } 2) = .ok 0xFFF ∧
    (∀ k, k ≤ 2 → phys .fault (indexAddr { st [] cfg1 with i := 0xFFD#16 } k) ≠ .ok 0xFFC) := by
  refine ⟨.inr (by decide), by unfold AddrsOk; decide, .inl rfl, rfl, rfl, rfl, fun k hk => ?_⟩
  interval_cases k <;> exact nofun

/-- Under Fault, I + x at the last address and past it. -/
theorem witness_StoreRegistersResult :
    AddrsOk { st [] cfg1 with i := 0xFF0#16 } (15 : Ix16).val ∧ ¬ AddrsOk { st [] cfg1 with i := 0xFF1#16 } (15 : Ix16).val :=
  ⟨.inr (by decide), by unfold AddrsOk; decide⟩

theorem witness_LoadRegistersResult :
    AddrsOk { st [] cfg1 with i := 0xFFF#16 } (0 : Ix16).val ∧ ¬ AddrsOk { st [] cfg1 with i := 0xFFF#16 } (1 : Ix16).val :=
  ⟨.inr (by decide), by unfold AddrsOk; decide⟩

theorem witness_StoredWordIsFetched :
    ∃ t u : State, (1 : Ix16).val = (0 : Ix16).val + 1 ∧ (1 : Ix16) ≤ 1 ∧ (st []).fault = none ∧
      exec (.ldMemVx 1) { st [(0, 0x12#8), (1, 0x34#8)] with i := 0x300#16 } = .next t ∧ t.fault = none ∧
      (0x300#16).toNat + (1 : Ix16).val < 65536 ∧ u.mem = t.mem ∧ u.cfg = t.cfg ∧ u.pc.toNat = 0x300 + (0 : Ix16).val :=
  ⟨_, { st [] with
      mem := [(0x300, 0x12#8), (0x301, 0x34#8)], pc := 0x300#16 }, rfl, by decide, rfl, rfl, rfl, by decide, rfl, rfl, rfl⟩

/-- The last cell, L = 2047, is drawn. -/
theorem witness_DrawResult_drawn :
    SpriteOk (corner 0x300) 1 ∧ ¬ OffEdge (corner 0x300) 0 1 1 ∧ Covers (corner 0x300) 0 1 1 2047 ∧
    ¬ Covers (corner 0x300) 0 1 1 2046 := by
  refine ⟨.inr (.inl rfl), ?_, ⟨0, 0, ⟨by decide, by decide, by decide⟩, by decide⟩, ?_⟩
  · rintro ⟨r, c, ⟨hr, hc, hl⟩, he⟩
    obtain rfl : r = 0 := by simp at hr; omega
    replace he : litRow (corner 0x300) 1 0 * 64 + litColumn (corner 0x300) 0 c ≥ 2048 := he
    interval_cases c <;> revert hl he <;> decide
  · rintro ⟨r, c, ⟨hr, hc, hl⟩, he⟩
    obtain rfl : r = 0 := by simp at hr; omega
    interval_cases c <;> revert hl he <;> decide

/-- L = 2048 is past the buffer, and column 64 past the grid under the other DRAW_EDGE. -/
theorem witness_DrawResult_offEdge :
    SpriteOk (corner 0x301) 1 ∧ OffEdge (corner 0x301) 0 1 1 ∧ SpriteOk (corner 0x301 cfg1) 1 ∧
    OffEdge (corner 0x301 cfg1) 0 1 1 :=
  ⟨.inr (.inl rfl), ⟨0, 1, ⟨by decide, by decide, by decide⟩, by show _ ≥ _; decide⟩, .inr (.inr (by decide)),
    ⟨0, 1, ⟨by decide, by decide, by decide⟩, by show _ ∨ _; decide⟩⟩

/-- The sprite's last byte at 0x1000 under Fault; an empty sprite and one that ends at 0xFFF are read. -/
theorem witness_DrawResult_unreadable :
    ¬ SpriteOk (corner 0xFFF cfg1) 2 ∧ SpriteOk (corner 0xFFF cfg1) 1 ∧ SpriteOk (corner 0x1000 cfg1) 0 :=
  ⟨by unfold SpriteOk AddrsOk; decide, .inr (.inr (by decide)), .inl rfl⟩

theorem witness_DrawTwiceRestores :
    ∃ t u : State, exec (.drw 0 1 1) (corner 0x300) = .next t ∧ t.fault = none ∧ u.disp = t.disp ∧
      u.mem = (corner 0x300).mem ∧ u.i = (corner 0x300).i ∧ u.cfg = (corner 0x300).cfg ∧
      u.reg 0 = (corner 0x300).reg 0 ∧ u.reg 1 = (corner 0x300).reg 1 :=
  ⟨_, _, rfl, rfl, rfl, rfl, rfl, rfl, rfl, rfl⟩

/-- V[x] at the last key and above it. -/
theorem witness_SkipOnKey :
    ((st [(1, 0x0F#8)]).reg 1).toNat = (15 : Ix16).val ∧ ((st [(1, 0x10#8)]).reg 1).toNat > 15 := by decide

/-- Two keys pressed, the lower the last but one; and none. -/
theorem witness_WaitKeyResult :
    (let s := { st [] with key := (State.reset.key.set 14 true).set 15 true }
     s.key[(14 : Ix16)] = true ∧ ∀ j : Ix16, j < 14 → s.key[j] = false) ∧
    (∀ k : Ix16, (st []).key[k] = false) ∧ (∀ k : Ix16, (at200 0xF20A).key[k] = false) ∧
    Runs (.ldVxK 2) (at200 0xF20A) := ⟨by decide, by decide, by decide, rfl, _, rfl, rfl⟩

theorem witness_ReadDelayResult : Runs (.ldVxDt 1) (at200 0xF107) := ⟨rfl, _, rfl, rfl⟩

theorem witness_SetTimersResult :
    Runs (.ldDtVx 0) (at200 0xF015) ∧ Runs (.ldStVx 4) (at200 0xF418) := ⟨⟨rfl, _, rfl, rfl⟩, rfl, _, rfl, rfl⟩

end Sys2Proof.Tests
end

/-!
PROOFS. The core as it is constructed with any parameters and any FONT (R7, R221, R41), and the random byte of RND (R14, R133).
-/

namespace Sys2Proof.Machine

/-! ### Reset with any parameters and any FONT -/

/-- An address outside the font's bytes reads as 0 where nothing has been stored (R41). -/
theorem Memory.blank_outside_font {a : Nat} (h : a < fontBase ∨ fontBase + fontSize ≤ a) : Memory.blank a = 0 :=
  if_neg (by omega)

/-- The k-th byte of FONT stands at FONT_BASE + k (R36, R221). -/
theorem read_construct_font (cfg : Config) (font : Vector Byte 80) {k : Nat} (h : k < 80) :
    (State.construct cfg font).mem.read (fontBase + k) = font[k] :=
  read_bytesFrom_mem [] (by simp [h])

/-- Outside the font's 80 bytes memory is zero after reset (R41). -/
theorem read_construct_outside_font (cfg : Config) (font : Vector Byte 80) {a : Nat}
    (h : a < fontBase ∨ fontBase + fontSize ≤ a) : (State.construct cfg font).mem.read a = 0 :=
  calc (State.construct cfg font).mem.read a
    _ = Memory.read [] a := read_bytesFrom_other [] (by simpa [fontSize] using h)
    _ = 0 := Memory.blank_outside_font h

/-- Construction differs from State.reset in memory and the parameters alone. -/
theorem construct_frame (cfg : Config) (font : Vector Byte 80) :
    Frame [.memory, .config] [] State.reset (State.construct cfg font) := by
  refine ⟨fun p hp => ?_, fun _ _ => rfl⟩
  cases p with
  | memory | config => simp at hp
  | _ => rfl

/-- Where no fault is recorded, the invariant is the canonical memory and the range of SP. -/
theorem inv_of_no_fault {s : State} (hm : s.mem.wf = true) (hsp : s.sp.toNat ≤ 16) (hf : s.fault = none) : Inv s where
  memWf := hm
  spRange := hsp
  faultLegal := by simp [hf]
  quietFault := absurd hf

theorem inv_construct (cfg : Config) (font : Vector Byte 80) : Inv (State.construct cfg font) :=
  inv_of_no_fault (wf_bytesFrom [] (by simp [fontBase, memSize]) rfl) (Nat.zero_le 16) rfl

/-- Settles O55, from the laws of bytes laid out in memory: the font's bytes lie at distinct addresses inside it. -/
theorem constructState : Obligations.ConstructState := fun cfg font =>
  ⟨fun _ hk => read_construct_font cfg font hk, fun _ ha => read_construct_outside_font cfg font ha, rfl,
    construct_frame cfg font, inv_construct cfg font⟩

/-! ### RND -/

theorem decode_rnd (m : DecodeMode) (x : Ix16) (nn : Byte) : decode m (fmtXI 0xC#4 (nib x) nn) = .rnd x nn := by
  simp [decode]

/-- RND with the byte `r` drawn writes V[x] and leaves the other registers (R133). -/
theorem reg_rndWith (r : Byte) (x k : Ix16) (nn : Byte) (s : State) :
    (rndWith r x nn s).reg k = if k = x then r &&& nn else s.reg k := reg_setReg s x k (r &&& nn)

/-- RND writes V[x] and the count of draws alone, whatever byte is drawn (R133). -/
theorem rndWith_frame (r : Byte) (x : Ix16) (nn : Byte) (s : State) : Frame [.draws] [x] s (rndWith r x nn s) := by
  refine ⟨fun p hp => ?_, fun k hk => ?_⟩
  · cases p with
    | draws => simp at hp
    | memory => exact fun _ => rfl
    | _ => rfl
  · rw [reg_rndWith, if_neg (by simpa using hk)]

/-- Settles O40: RND is rndWith of the free byte of this draw. -/
theorem randomResult : Obligations.RandomResult := by
  intro m x nn s
  have hx : (rndWith (Config.randByte s.draws) x nn s).reg x = Config.randByte s.draws &&& nn := by simp [reg_rndWith]
  have hzero (h : nn = 0) : (rndWith (Config.randByte s.draws) x nn s).reg x = 0 := by
    rw [hx, h]; exact BitVec.and_zero
  exact ⟨decode_rnd m x nn, rndWith (Config.randByte s.draws) x nn s, rfl, hx, hzero, rfl, rndWith_frame _ x nn s⟩

end Sys2Proof.Machine

/-!
PROOFS. What an instruction writes (R22 and the writers named in R24 to R35 and R190): one frame per update of the state, put
together once for every instruction.
-/

namespace Sys2Proof.Machine

/-! ### Frames of the updates

A part that the update does not name is the same field of both records; the part it names is in the frame's list. -/

/-- A frame may name more than it needs. -/
theorem Frame.mono {ps ps' : List Part} {rs rs' : List Ix16} {s t : State} (h : Frame ps rs s t) (hp : ps ⊆ ps')
    (hr : rs ⊆ rs') : Frame ps' rs' s t :=
  ⟨fun p h' => h.1 p fun hm => h' (hp hm), fun r h' => h.2 r fun hm => h' (hr hm)⟩

theorem Frame.refl (s : State) : Frame [] [] s s := by
  refine ⟨fun p _ => ?_, fun _ _ => rfl⟩
  cases p with
  | memory => exact fun _ => rfl
  | _ => rfl

/-- A change of the register file alone that keeps every register but those of `rs`. -/
theorem frame_v {rs : List Ix16} {s : State} {v : Vector Byte 16} (h : ∀ r, r ∉ rs → v[r] = s.v[r]) :
    Frame [] rs s { s with v := v } :=
  ⟨(Frame.refl s).1, h⟩

theorem frame_setReg (s : State) (x : Ix16) (b : Byte) : Frame [] [x] s (s.setReg x b) :=
  frame_v fun r hr => by rw [getElem_putReg, if_neg (by simpa using hr)]

theorem frame_writeRF (s : State) (d : Ix16) (result flag : Byte) : Frame [] [d, vf] s (s.writeRF d result flag) := by
  refine frame_v fun r hr => ?_
  obtain ⟨hd, hvf⟩ : r ≠ d ∧ r ≠ vf := by simpa using hr
  exact (reg_writeRF s d r result flag).trans (by rw [if_neg fun h => hd h.1, if_neg hvf, State.reg])

theorem frame_regLoads (s : State) (x : Ix16) (bytes : List Byte) :
    Frame [] (ixUpTo x) s { s with v := putRegs s.v (regLoads x bytes) } := by
  refine frame_v fun r hr => getElem_putRegs_other _ _ _ fun w hw e => ?_
  exact hr (e ▸ (List.of_mem_zip hw).1)

theorem frame_pc (s : State) (a : Word) : Frame [.pc] [] s { s with pc := a } :=
  ⟨fun p hp => by cases p <;> simp_all [SamePart], fun _ _ => rfl⟩

theorem frame_skip_if (s : State) (c : Prop) [Decidable c] : Frame [.pc] [] s (if c then s.skip else s) := by
  split
  · exact frame_pc s (s.pc + 2)
  · exact (Frame.refl s).mono (by simp) (by simp)

theorem frame_sp_pc (s : State) (sp : Byte) (a : Word) : Frame [.pc, .sp] [] s { s with sp := sp, pc := a } :=
  ⟨fun p hp => by cases p <;> simp_all [SamePart], fun _ _ => rfl⟩

theorem frame_push_pc (s : State) (k : Ix16) (w a : Word) : Frame [.pc, .sp, .stack] [] s { s.push k w with pc := a } :=
  ⟨fun p hp => by cases p <;> simp_all [SamePart], fun _ _ => rfl⟩

theorem frame_index (s : State) (a : Word) : Frame [.index] [] s { s with i := a } :=
  ⟨fun p hp => by cases p <;> simp_all [SamePart], fun _ _ => rfl⟩

theorem frame_delay (s : State) (b : Byte) : Frame [.delay] [] s { s with dt := b } :=
  ⟨fun p hp => by cases p <;> simp_all [SamePart], fun _ _ => rfl⟩

theorem frame_sound (s : State) (b : Byte) : Frame [.sound] [] s { s with st := b } :=
  ⟨fun p hp => by cases p <;> simp_all [SamePart], fun _ _ => rfl⟩

theorem frame_mem (s : State) (m : Memory) : Frame [.memory] [] s { s with mem := m } :=
  ⟨fun p hp => by cases p <;> simp_all [SamePart], fun _ _ => rfl⟩

theorem frame_disp (s : State) (d : Display) : Frame [.display] [] s { s with disp := d } :=
  ⟨fun p hp => by cases p <;> simp_all [SamePart], fun _ _ => rfl⟩

theorem frame_drawCells (s : State) (cells : List (Nat × Nat)) : Frame [.display] [vf] s (drawCells s cells) :=
  ⟨(frame_disp s _).1, fun r hr => reg_drawCells s cells r (by simpa using hr)⟩

/-- A raised fault writes the fault record alone (R13, R193). -/
theorem frame_raise (k : FaultKind) (s : State) : Frame [.fault] [] s (raise k s) :=
  ⟨fun p hp => by cases p <;> simp_all [SamePart], fun _ _ => rfl⟩

/-! ### Frames of the handlers -/

section
variable {ps : List Part} {rs : List Ix16} {s t u : State}

theorem frame_of_next (hf : Frame ps rs s u) (h : (.next u : Host.Outcome State Fault Refusal) = .next t) :
    Frame ps rs s t := by
  cases h; exact hf

theorem frame_of_raise {k : FaultKind} (h : (.next (raise k s) : Host.Outcome State Fault Refusal) = .next t)
    (hp : Part.fault ∈ ps) : Frame ps rs s t :=
  frame_of_next ((frame_raise k s).mono (by simpa using hp) (by simp)) h

/-- A handler that concludes keeps what its completed state keeps, beside the fault record. -/
theorem frame_of_conclude {r : Except FaultKind State} (h : conclude s r = .next t)
    (hok : ∀ u, r = .ok u → Frame ps rs s u) : Frame (.fault :: ps) rs s t := by
  obtain hr | ⟨k, -, rfl⟩ := conclude_next h
  · exact (hok t hr).mono (List.subset_cons_self ..) (List.Subset.refl _)
  · exact (frame_raise k s).mono (by simp) (by simp)

theorem execRet_frame (h : execRet s = .next t) : Frame [.pc, .sp, .fault] [] s t := by
  unfold execRet at h
  split at h
  · exact frame_of_raise h (by simp)
  · split at h
    · exact frame_of_next ((frame_sp_pc s _ _).mono (by simp) (by simp)) h
    · cases h

theorem execCall_frame {nnn : Addr12} (h : execCall nnn s = .next t) : Frame [.pc, .sp, .stack, .fault] [] s t := by
  unfold execCall at h
  split at h
  · exact frame_of_raise h (by simp)
  · split at h
    · exact frame_of_next ((frame_push_pc s _ _ _).mono (by simp) (by simp)) h
    · cases h

theorem execDrw_frame {x y n : Ix16} (h : execDrw x y n s = .next t) : Frame [.display, .fault] [vf] s t := by
  obtain ⟨k, -, e⟩ | ⟨rows, -, -, e⟩ | ⟨rows, -, -, e⟩ := execDrw_cases x y n s
  · exact frame_of_raise (e.symm.trans h) (by simp)
  · exact frame_of_raise (e.symm.trans h) (by simp)
  · exact frame_of_next ((frame_drawCells s _).mono (by simp) (by simp)) (e.symm.trans h)

theorem skipOnKey_frame {level : Bool} {x : Ix16} (h : skipOnKey level x s = .ok t) : Frame [.pc] [] s t := by
  obtain ⟨-, e⟩ | ⟨k, -, e⟩ := skipOnKey_cases level x s
  · rw [e] at h; cases h
  · obtain rfl := Except.ok.inj (e.symm.trans h)
    exact frame_skip_if s _

theorem execLdVxK_frame {x : Ix16} (h : execLdVxK x s = .next t) : Frame [.pc] [x] s t := by
  refine frame_of_next ?_ h
  split
  · exact (frame_setReg s x _).mono (by simp) (by simp)
  · exact (frame_pc s _).mono (by simp) (by simp)

/-- LD B and LD [I] write memory or the fault record. -/
theorem frame_of_store {e : Except FaultKind Memory}
    (h : conclude s (e.map fun m => { s with mem := m }) = .next t) : Frame [.memory, .fault] [] s t := by
  have hf : Frame [.fault, .memory] [] s t := frame_of_conclude h fun u hu => by
    cases e with
    | error k => cases hu
    | ok m => cases hu; exact frame_mem s m
  exact hf.mono (by simp) (by simp)

theorem execLdVxMem_frame {x : Ix16} (h : execLdVxMem x s = .next t) : Frame [.fault] (ixUpTo x) s t := by
  refine frame_of_conclude h fun u hu => ?_
  cases hl : loadBytes s.cfg.addrPolicy s.mem (indexAddrs s (x.val + 1)) with
  | error k => rw [hl] at hu; cases hu
  | ok bytes => rw [hl] at hu; cases hu; exact frame_regLoads s x bytes

theorem execNop_frame {w : Word} (h : execNop w s = .next t) : Frame [.fault] [] s t := by
  unfold execNop at h
  split at h
  · exact frame_of_next ((Frame.refl s).mono (by simp) (by simp)) h
  · exact frame_of_raise h (by simp)

end

theorem subnDestIx_vf (cfg : Config) (x y : Ix16) :
    [subnDestIx cfg.subnDest x y, vf] = regsWritten cfg (.subn x y) := by
  cases h : cfg.subnDest <;> simp [regsWritten, subnDestIx, h]

/-- An instruction writes only the parts and the registers the spec's tables give it. -/
theorem exec_frame {i : Instr} {s t : State} (h : exec i s = .next t) :
    Frame (partsWritten i) (regsWritten s.cfg i) s t := by
  cases i with
  | cls => exact frame_of_next (frame_disp s _) h
  | ret => exact execRet_frame h
  | call nnn => exact execCall_frame h
  | jp _ | jpV0 _ => exact frame_of_next (frame_pc s _) h
  | seImm _ _ | sneImm _ _ | seReg _ _ | sneReg _ _ => exact frame_of_next (frame_skip_if s _) h
  | ldImm x _ | addImm x _ | ldReg x _ | orReg x _ | andReg x _ | xorReg x _ | ldVxDt x =>
    exact frame_of_next (frame_setReg s x _) h
  | addReg x _ | sub x _ | shr x _ | shl x _ => exact frame_of_next (frame_writeRF s x _ _) h
  | subn x y => exact subnDestIx_vf s.cfg x y ▸ frame_of_next (frame_writeRF s _ _ _) h
  | ldI _ | addI _ | ldF _ => exact frame_of_next (frame_index s _) h
  | rnd x nn => exact frame_of_next (rndWith_frame _ x nn s) h
  | drw _ _ _ => exact execDrw_frame h
  | skp _ | sknp _ => exact (frame_of_conclude h fun _ => skipOnKey_frame).mono (by simp [partsWritten]) (by simp)
  | ldVxK _ => exact execLdVxK_frame h
  | ldDtVx _ => exact frame_of_next (frame_delay s _) h
  | ldStVx _ => exact frame_of_next (frame_sound s _) h
  | ldB _ | ldMemVx _ => exact frame_of_store h
  | ldVxMem _ => exact execLdVxMem_frame h
  | nop w => exact execNop_frame (w := w) h

/-- Settles O20, by the frame of each instruction. -/
theorem onlyNamedWriters : Obligations.OnlyNamedWriters := fun _ _ _ h => (exec_frame h).1

/-- Settles O21, by the frame of each instruction. -/
theorem registersWritten : Obligations.RegistersWritten := fun _ _ _ h => (exec_frame h).2

end Sys2Proof.Machine

/-!
PROOFS. The invariant: it holds of the reset state and every Cycle keeps it (R27, R190, R192, R193).
-/

namespace Sys2Proof.Machine

/-! ### Legal fault records -/

theorem faultLegal_address {cfg : Config} (pc : Word) (w : Option Word) (h : cfg.addrPolicy = .fault) :
    FaultLegal cfg ⟨.addressOutOfRange, pc, w⟩ :=
  ⟨fun _ => rfl, fun _ => h, nofun⟩

theorem faultLegal_unmapped {cfg : Config} (pc w : Word) (h : cfg.unmappedPolicy = .fault) :
    FaultLegal cfg ⟨.unmappedOpcode, pc, some w⟩ :=
  ⟨nofun, nofun, fun _ => h⟩

/-- A kind that depends on no policy, with the word of its instruction, is a legal record. -/
theorem faultLegal_of_kind {k : FaultKind} (cfg : Config) (pc w : Word) (ha : k ≠ .addressOutOfRange)
    (hu : k ≠ .unmappedOpcode) : FaultLegal cfg ⟨k, pc, some w⟩ :=
  ⟨nofun, (absurd · ha), (absurd · hu)⟩

/-! ### Every instruction keeps the invariant -/

section
variable {s : State} (hs : Inv s)
include hs

theorem inv_haltedCycle : Inv (haltedCycle s) :=
  ⟨hs.memWf, hs.spRange, hs.faultLegal, fun _ => rfl⟩

theorem inv_raiseFetch {k : FaultKind} (hk : fetch s = .error k) : Inv (raiseFetch k s) := by
  obtain ⟨rfl, hp⟩ := fetch_error hk
  exact ⟨hs.memWf, hs.spRange, fun f hf => by cases hf; exact faultLegal_address s.pc none hp, fun _ => rfl⟩

theorem inv_raise {k : FaultKind} (ht : s.tone = false) (hk : FaultLegal s.cfg ⟨k, s.pc - 2, some s.ir⟩) :
    Inv (raise k s) :=
  ⟨hs.memWf, hs.spRange, fun f hf => by cases hf; exact hk, fun _ => ht⟩

/-- Where no fault is recorded, a state with the same memory and SP meets the invariant too. -/
theorem Inv.of_same {t : State} (hf : s.fault = none) (hm : t.mem = s.mem) (hsp : t.sp = s.sp) (hft : t.fault = s.fault) :
    Inv t :=
  inv_of_no_fault (hm ▸ hs.memWf) (hsp ▸ hs.spRange) (hft.trans hf)

theorem inv_skip_if (hf : s.fault = none) (c : Prop) [Decidable c] : Inv (if c then s.skip else s) := by
  split
  · exact hs.of_same hf rfl rfl rfl
  · exact hs

variable (hf : s.fault = none) (ht : s.tone = false)
include ht

include hf

/-- RET names a stack entry, since SP lies in 1..16 where it does not fault (R101). -/
theorem execRet_keeps_inv : ∃ t, execRet s = .next t ∧ Inv t := by
  unfold execRet
  split
  · exact ⟨_, rfl, inv_raise hs ht (faultLegal_of_kind _ _ _ nofun nofun)⟩
  · next h0 =>
    have hsp : (s.sp - 1).toNat < 16 := by have := hs.spRange; bv_omega
    rw [show stackEntry (s.sp - 1) = some ⟨_, hsp⟩ from stackEntry_eq_some.2 rfl]
    exact ⟨_, rfl, inv_of_no_fault hs.memWf (Nat.le_of_lt hsp) hf⟩

/-- CALL names a stack entry, since SP lies in 0..15 where it does not fault (R103). -/
theorem execCall_keeps_inv (nnn : Addr12) : ∃ t, execCall nnn s = .next t ∧ Inv t := by
  unfold execCall
  split
  · exact ⟨_, rfl, inv_raise hs ht (faultLegal_of_kind _ _ _ nofun nofun)⟩
  · next h16 =>
    have hsp : s.sp.toNat < 16 := by have := hs.spRange; bv_omega
    rw [show stackEntry s.sp = some ⟨_, hsp⟩ from stackEntry_eq_some.2 rfl]
    exact ⟨_, rfl, inv_of_no_fault hs.memWf (show (s.sp + 1).toNat ≤ 16 by bv_omega) hf⟩

theorem execDrw_keeps_inv (x y n : Ix16) : ∃ t, execDrw x y n s = .next t ∧ Inv t := by
  obtain ⟨k, hk, e⟩ | ⟨rows, -, -, e⟩ | ⟨rows, -, -, e⟩ := execDrw_cases x y n s
  · obtain ⟨rfl, hp, -⟩ := loadBytes_error hk
    exact ⟨_, e, inv_raise hs ht (faultLegal_address _ _ hp)⟩
  · exact ⟨_, e, inv_raise hs ht (faultLegal_of_kind _ _ _ nofun nofun)⟩
  · exact ⟨_, e, hs.of_same hf rfl rfl rfl⟩

theorem skipOnKey_keeps_inv (level : Bool) (x : Ix16) : ∃ t, conclude s (skipOnKey level x s) = .next t ∧ Inv t := by
  obtain ⟨-, e⟩ | ⟨k, -, e⟩ := skipOnKey_cases level x s
  · exact ⟨raise .keyIndexOutOfRange s, by rw [e, conclude_error], inv_raise hs ht (faultLegal_of_kind _ _ _ nofun nofun)⟩
  · exact ⟨_, by rw [e, conclude_ok], inv_skip_if hs hf _⟩

/-- LD B and LD [I] keep the canonical form of memory. -/
theorem store_keeps_inv (ws : List (Nat × Byte)) :
    ∃ t, conclude s ((storeBytes s.cfg.addrPolicy s.mem ws).map fun m => { s with mem := m }) = .next t ∧ Inv t := by
  cases hm : storeBytes s.cfg.addrPolicy s.mem ws with
  | error k =>
    obtain ⟨rfl, hp, -⟩ := storeBytes_error hm
    exact ⟨_, rfl, inv_raise hs ht (faultLegal_address _ _ hp)⟩
  | ok m => exact ⟨_, rfl, inv_of_no_fault (storeBytes_wf hm hs.memWf) hs.spRange hf⟩

theorem execLdVxMem_keeps_inv (x : Ix16) : ∃ t, execLdVxMem x s = .next t ∧ Inv t := by
  unfold execLdVxMem
  cases hl : loadBytes s.cfg.addrPolicy s.mem (indexAddrs s (x.val + 1)) with
  | error k =>
    obtain ⟨rfl, hp, -⟩ := loadBytes_error hl
    exact ⟨_, rfl, inv_raise hs ht (faultLegal_address _ _ hp)⟩
  | ok bytes => exact ⟨_, rfl, hs.of_same hf rfl rfl rfl⟩

omit hf in
theorem execNop_keeps_inv (w : Word) : ∃ t, execNop w s = .next t ∧ Inv t := by
  unfold execNop
  split
  · exact ⟨_, rfl, hs⟩
  · next hp => exact ⟨_, rfl, inv_raise hs ht (faultLegal_unmapped _ _ hp)⟩

omit ht in
theorem execLdVxK_keeps_inv (x : Ix16) : ∃ t, execLdVxK x s = .next t ∧ Inv t := by
  refine ⟨_, rfl, ?_⟩
  split <;> exact hs.of_same hf rfl rfl rfl

/-- Every instruction answers a next state that meets the invariant, from a state as the driver hands it over: no fault
recorded and no tone (R93). -/
theorem exec_keeps_inv (i : Instr) : ∃ t, exec i s = .next t ∧ Inv t := by
  cases i with
  | ret => exact execRet_keeps_inv hs hf ht
  | call nnn => exact execCall_keeps_inv hs hf ht nnn
  | seImm _ _ | sneImm _ _ | seReg _ _ | sneReg _ _ => exact ⟨_, rfl, inv_skip_if hs hf _⟩
  | drw x y n => exact execDrw_keeps_inv hs hf ht x y n
  | skp x => exact skipOnKey_keeps_inv hs hf ht true x
  | sknp x => exact skipOnKey_keeps_inv hs hf ht false x
  | ldVxK x => exact execLdVxK_keeps_inv hs hf x
  | ldB x => exact store_keeps_inv hs hf ht _
  | ldMemVx x => exact store_keeps_inv hs hf ht _
  | ldVxMem x => exact execLdVxMem_keeps_inv hs hf ht x
  | nop w => exact execNop_keeps_inv hs ht w
  | cls | jp _ | jpV0 _ | ldImm _ _ | addImm _ _ | ldReg _ _ | orReg _ _ | andReg _ _ | xorReg _ _ | addReg _ _ | sub _ _
  | shr _ _ | subn _ _ | shl _ _ | ldI _ | rnd _ _ | ldVxDt _ | ldDtVx _ | ldStVx _ | addI _ | ldF _ =>
    exact ⟨_, rfl, hs.of_same hf rfl rfl rfl⟩

end

/-! ### Every Cycle keeps the invariant -/

theorem step_of_fault {s : State} (h : s.fault ≠ none) : step s = .next (haltedCycle s) :=
  if_pos (Option.isSome_iff_ne_none.2 h)

theorem step_of_fetch_error {s : State} {k : FaultKind} (hf : s.fault = none) (hk : fetch s = .error k) :
    step s = .next (raiseFetch k s) := by
  simp [step, hf, hk]

/-- A Cycle whose instruction answers `u` ends with the timer step unless `u` is faulted (R93). -/
theorem step_of_exec {s u : State} {w : Word} (hf : s.fault = none) (hw : fetch s = .ok w)
    (hu : exec (decode s.cfg.decodeMode w) (beginExecute w s) = .next u) :
    step s = .next (if u.fault.isSome then u else tickTimers u) := by
  simp [step, finishCycle, hf, hw, hu]

/-- Settles O16: a faulted Cycle, a faulted fetch and every instruction answer a state that meets the invariant. -/
theorem invKept : Obligations.InvKept := by
  intro s hs
  by_cases hf : s.fault = none
  · cases hw : fetch s with
    | error k => exact ⟨_, step_of_fetch_error hf hw, inv_raiseFetch hs hw⟩
    | ok w =>
      have hb : Inv (beginExecute w s) := hs.of_same hf rfl rfl rfl
      obtain ⟨u, hu, hinv⟩ := exec_keeps_inv hb hf rfl (decode s.cfg.decodeMode w)
      refine ⟨_, step_of_exec hf hw hu, ?_⟩
      split
      · exact hinv
      · next hq => exact hinv.of_same (by simpa using hq) rfl rfl rfl
  · exact ⟨_, step_of_fault hf, inv_haltedCycle hs⟩

/-! ### The reset state -/

/-- Settles O17: nothing is stored, SP is 0 and no fault is recorded. -/
theorem invAtReset : Obligations.InvAtReset := inv_of_no_fault rfl (Nat.zero_le 16) rfl

theorem pixel_replicate_zero (l : Nat) : pixel (Vector.replicate 32 0#64) l = false := by
  unfold pixel
  split
  · simp
  · rfl

/-- Nothing is stored at reset, so outside the font memory reads as 0 (R41). -/
theorem read_reset_outside_font {a : Nat} (h : a < fontBase ∨ fontBase + fontSize ≤ a) : State.reset.mem.read a = 0 :=
  Memory.blank_outside_font h

/-- Settles O18, by evaluation of the font and of each field of the reset state. -/
theorem resetState : Obligations.ResetState :=
  ⟨fun _ ha => read_reset_outside_font (.inl ha),
    rfl, rfl, rfl, rfl, rfl, rfl, rfl, rfl, rfl, rfl, rfl, rfl, rfl, rfl, rfl, rfl,
    fun _ ha => read_reset_outside_font (.inr ha), fun _ => Vector.getElem_replicate .., rfl, rfl, rfl,
    fun _ => Vector.getElem_replicate .., rfl, rfl, pixel_replicate_zero, fun _ => Vector.getElem_replicate .., rfl, rfl, rfl⟩

end Sys2Proof.Machine

/-!
PROOFS. What an instruction does not read: the sound timer, the tone and the tone count (R29, R37). An instruction commutes
with setting them.
-/

namespace Sys2Proof.Machine

/-- The state with ST, the tone and the tone count set. -/
def State.withSound (s : State) (st : Byte) (tone : Bool) (n : Nat) : State :=
  { s with st := st, tone := tone, toneCount := n }

/-- The outcome with its next state, if it has one, mapped. -/
def mapNext (f : State → State) : Host.Outcome State Fault Refusal → Host.Outcome State Fault Refusal
  | .next s => .next (f s)
  | .fault r => .fault r
  | .refused r => .refused r

section
variable (st : Byte) (tone : Bool) (n : Nat) (s : State)

@[simp] theorem State.withSound_sp : (s.withSound st tone n).sp = s.sp := rfl
@[simp] theorem State.withSound_key : (s.withSound st tone n).key = s.key := rfl
@[simp] theorem State.withSound_cfg : (s.withSound st tone n).cfg = s.cfg := rfl
@[simp] theorem reg_withSound (x : Ix16) : (s.withSound st tone n).reg x = s.reg x := rfl
@[simp] theorem spriteRows_withSound (k : Ix16) : spriteRows (s.withSound st tone n) k = spriteRows s k := rfl
@[simp] theorem spriteCells_withSound (x y : Ix16) (rows : List Byte) :
    spriteCells (s.withSound st tone n) x y rows = spriteCells s x y rows := rfl

theorem withSound_skip_if (c : Prop) [Decidable c] :
    (if c then s.skip else s).withSound st tone n =
      if c then (s.withSound st tone n).skip else s.withSound st tone n :=
  apply_ite (State.withSound · st tone n) c s.skip s

/-- A handler concludes alike with sound set, when what it computes is the same with sound set. -/
theorem conclude_withSound (r : Except FaultKind State) :
    conclude (s.withSound st tone n) (r.map (State.withSound · st tone n)) =
      mapNext (State.withSound · st tone n) (conclude s r) := by
  cases r <;> rfl

theorem execRet_withSound :
    execRet (s.withSound st tone n) = mapNext (State.withSound · st tone n) (execRet s) := by
  unfold execRet
  rw [State.withSound_sp]
  split
  · rfl
  · split <;> rfl

theorem execCall_withSound (nnn : Addr12) :
    execCall nnn (s.withSound st tone n) = mapNext (State.withSound · st tone n) (execCall nnn s) := by
  unfold execCall
  rw [State.withSound_sp]
  split
  · rfl
  · split <;> rfl

theorem execDrw_withSound (x y k : Ix16) :
    execDrw x y k (s.withSound st tone n) = mapNext (State.withSound · st tone n) (execDrw x y k s) := by
  refine Eq.trans (congrArg (conclude _) ?_) (conclude_withSound st tone n s _)
  rw [spriteRows_withSound]
  split
  · rfl
  · rw [spriteCells_withSound, State.withSound_cfg]
    split <;> rfl

theorem skipOnKey_withSound (level : Bool) (x : Ix16) :
    conclude (s.withSound st tone n) (skipOnKey level x (s.withSound st tone n)) =
      mapNext (State.withSound · st tone n) (conclude s (skipOnKey level x s)) := by
  refine Eq.trans (congrArg (conclude _) ?_) (conclude_withSound st tone n s _)
  unfold skipOnKey
  simp only [reg_withSound, State.withSound_key]
  split
  · rfl
  · exact congrArg Except.ok (withSound_skip_if st tone n s _).symm

/-- A handler that loads or stores and then writes what it computed with `f`, where `f` does not read the sound. -/
theorem conclude_map_withSound {α : Type} (e : Except FaultKind α) (f : State → α → State)
    (hf : ∀ a, f (s.withSound st tone n) a = (f s a).withSound st tone n) :
    conclude (s.withSound st tone n) (e.map (f (s.withSound st tone n))) =
      mapNext (State.withSound · st tone n) (conclude s (e.map (f s))) := by
  cases e with
  | error k => rfl
  | ok a => exact congrArg _ (hf a)

theorem execLdVxK_withSound (x : Ix16) :
    execLdVxK x (s.withSound st tone n) = mapNext (State.withSound · st tone n) (execLdVxK x s) := by
  unfold execLdVxK
  simp only [State.withSound_key]
  split <;> rfl

theorem execNop_withSound (w : Word) :
    execNop w (s.withSound st tone n) = mapNext (State.withSound · st tone n) (execNop w s) := by
  unfold execNop
  simp only [State.withSound_cfg]
  split <;> rfl

/-- Every instruction but LD ST, which writes ST, commutes with setting ST, the tone and the tone count. -/
theorem exec_withSound (i : Instr) (hi : ∀ x, i ≠ .ldStVx x) :
    exec i (s.withSound st tone n) = mapNext (State.withSound · st tone n) (exec i s) := by
  cases i with
  | ldStVx x => exact absurd rfl (hi x)
  | ret => exact execRet_withSound st tone n s
  | call nnn => exact execCall_withSound st tone n s nnn
  | seImm _ _ | sneImm _ _ | seReg _ _ | sneReg _ _ =>
    exact congrArg Host.Outcome.next (withSound_skip_if st tone n s _).symm
  | drw x y k => exact execDrw_withSound st tone n s x y k
  | skp x => exact skipOnKey_withSound st tone n s true x
  | sknp x => exact skipOnKey_withSound st tone n s false x
  | ldVxK x => exact execLdVxK_withSound st tone n s x
  | ldB _ | ldMemVx _ =>
    exact conclude_map_withSound st tone n s _ (fun s m => { s with mem := m }) fun _ => rfl
  | ldVxMem x =>
    exact conclude_map_withSound st tone n s _ (fun s bytes => { s with v := putRegs s.v (regLoads x bytes) }) fun _ => rfl
  | nop w => exact execNop_withSound st tone n s w
  | cls | jp _ | jpV0 _ | ldImm _ _ | addImm _ _ | ldReg _ _ | orReg _ _ | andReg _ _ | xorReg _ _ | addReg _ _ | sub _ _
  | shr _ _ | subn _ _ | shl _ _ | ldI _ | rnd _ _ | ldVxDt _ | ldDtVx _ | addI _ | ldF _ => rfl

end

/-- Settles O22, since every instruction but LD ST commutes with setting the sound. -/
theorem soundAndToneAreNotRead : Obligations.SoundAndToneAreNotRead := fun i s _ st tone n hi h =>
  (exec_withSound st tone n s i hi).trans (congrArg (mapNext (State.withSound · st tone n)) h)

end Sys2Proof.Machine

/-!
PROOFS. The values a flag write leaves in VF (R23, R128 to R132, R161).
-/

namespace Sys2Proof.Machine

theorem flagByte_cases (c : Bool) : flagByte c = 0 ∨ flagByte c = 1 := by
  cases c
  · exact .inl rfl
  · exact .inr rfl

theorem shrFlag_cases (a : Byte) : shrFlag a = 0 ∨ shrFlag a = 1 := by
  rw [shrFlag, show 0x01#8 = BitVec.twoPow 8 0 from rfl, BitVec.and_twoPow]
  split
  · exact .inr rfl
  · exact .inl rfl

theorem shlFlag_raw_cases (a : Byte) : shlFlag .raw a = 0 ∨ shlFlag .raw a = 0x80#8 := by
  rw [shlFlag, show 0x80#8 = BitVec.twoPow 8 7 from rfl, BitVec.and_twoPow]
  split
  · exact .inr rfl
  · exact .inl rfl

/-- The bit shifted out of a byte as 0 or 1: the byte over 128. -/
theorem shlFlag_normalized_cases (a : Byte) : shlFlag .normalized a = 0 ∨ shlFlag .normalized a = 1 := by
  have h : (shlFlag .normalized a).toNat = a.toNat / 128 := by simp [shlFlag, Nat.shiftRight_eq_div_pow]
  bv_omega

/-- Where the destination is not VF, the flag stands in VF under either order of the two writes (R121). -/
theorem reg_vf_writeRF (s : State) {d : Ix16} (result flag : Byte) (h : d ≠ vf) :
    (s.writeRF d result flag).reg vf = flag := by
  rw [reg_writeRF, if_neg fun e => h e.1.symm, if_pos rfl]

theorem subnDestIx_ne_vf {dest : SubnDest} {x y : Ix16} (hy : dest = .vy → y ≠ vf) (hx : dest = .vx → x ≠ vf) :
    subnDestIx dest x y ≠ vf := by
  cases dest
  · exact hy rfl
  · exact hx rfl

/-- A DRW that does not fault leaves a flag in VF (R161). -/
theorem execDrw_flag {x y n : Ix16} {s t : State} (h : execDrw x y n s = .next t) (ht : t.fault = none) :
    t.reg vf = 0 ∨ t.reg vf = 1 := by
  obtain ⟨k, -, e⟩ | ⟨rows, -, -, e⟩ | ⟨rows, -, hfit, e⟩ := execDrw_cases x y n s <;>
    obtain rfl := Host.Outcome.next.inj (e.symm.trans h)
  · cases ht
  · cases ht
  · rw [(drawCells_spec s x y rows fun c hc => cellFits_bound (hfit c hc)).2]
    exact flagByte_cases _

/-- Settles O23, from the values of the flags and the flag's place in VF. -/
theorem flagValues : Obligations.FlagValues := by
  intro x y n s t
  refine ⟨fun hx h => ?_, fun hy hx h => ?_, execDrw_flag, fun hx hm h => ?_, fun hx hm h => ?_⟩
  · obtain h | h | h := h <;> obtain rfl := Host.Outcome.next.inj h <;> rw [reg_vf_writeRF s _ _ hx]
    · exact flagByte_cases _
    · exact flagByte_cases _
    · exact shrFlag_cases _
  · obtain rfl := Host.Outcome.next.inj h
    rw [reg_vf_writeRF s _ _ (subnDestIx_ne_vf hy hx)]
    exact flagByte_cases _
  · obtain rfl := Host.Outcome.next.inj h
    rw [reg_vf_writeRF s _ _ hx, hm]
    exact shlFlag_normalized_cases _
  · obtain rfl := Host.Outcome.next.inj h
    rw [reg_vf_writeRF s _ _ hx, hm]
    exact shlFlag_raw_cases _

end Sys2Proof.Machine

/-!
PROOFS. Memory (spec/20_memory.md): the address mapping, the fetch as the big-endian word at PC, and the fetch of a word that
LD [I] stored (R52, R54, R62, R64, R90).
-/

namespace Sys2Proof.Machine

/-! ### The address mapping -/

theorem phys_fault_of_lt {a : Nat} (h : a < memSize) : phys .fault a = .ok a := if_pos h

theorem phys_fault_of_ge {a : Nat} (h : memSize ≤ a) : phys .fault a = .error .addressOutOfRange :=
  if_neg (Nat.not_lt.2 h)

/-- The memory size divides 2^16, so truncating a sum to 16 bits first maps it to the same address (R52). -/
theorem phys_wrap_mod_65536 (a : Nat) : phys .wrap (a % 65536) = phys .wrap a :=
  congrArg Except.ok (Nat.mod_mod_of_dvd a (by decide))

/-- Settles O11, from the two cases of the mapping under Fault and from 4096 dividing 65536. -/
theorem physMapping : Obligations.PhysMapping := fun a =>
  ⟨rfl, phys_wrap_mod_65536 a, phys_fault_of_lt, phys_fault_of_ge⟩

/-! ### The fetch -/

/-- The high byte counts 256 times (R54). -/
theorem toNat_wordOfBytes (hi lo : Byte) : (wordOfBytes hi lo).toNat = hi.toNat * 256 + lo.toNat := by
  rw [wordOfBytes, BitVec.toNat_append, ← Nat.shiftLeft_add_eq_or_of_lt lo.isLt, Nat.shiftLeft_eq]

/-- A fetch succeeds where both of its addresses map (R64, R90). -/
theorem fetch_of_ok {s : State} (h : s.cfg.addrPolicy = .wrap ∨ s.pc.toNat + 1 ≤ 0xFFF) :
    fetch s = .ok (wordOfBytes (s.mem.read (s.pc.toNat % memSize)) (s.mem.read ((s.pc.toNat + 1) % memSize))) := by
  have hpc : s.cfg.addrPolicy = .wrap ∨ s.pc.toNat ≤ 0xFFF := h.imp_right Nat.le_of_succ_le
  simp only [fetch, phys_of_ok hpc, phys_of_ok h]

/-- Under Fault a fetch whose second byte lies above 0xFFF fails, whether or not its first byte does too (R64, R193). -/
theorem fetch_of_fault {s : State} (hp : s.cfg.addrPolicy = .fault) (h : 0xFFF < s.pc.toNat + 1) :
    fetch s = .error .addressOutOfRange := by
  cases hw : fetch s with
  | error k => rw [(fetch_error hw).1]
  | ok w =>
    obtain ⟨-, hlow, -⟩ := fetch_ok hw
    rw [hp, phys_fault_of_ge h] at hlow
    cases hlow

/-- Settles O8, from what a fetch gives where its addresses map and where the second does not. -/
theorem fetchIsBigEndian : Obligations.FetchIsBigEndian := fun _ =>
  ⟨fun h => ⟨_, fetch_of_ok h, toNat_wordOfBytes _ _⟩, fetch_of_fault⟩

/-! ### A word stored by LD [I] -/

/-- The memory after the writes of LD [I], Vx at their mapped addresses (R55, R144). -/
def memAfterRegWrites (s : State) (x : Ix16) : Memory :=
  s.mem.writeAll ((regWrites s x).map fun w => (w.1 % memSize, w.2))

theorem mem_regWrites {s : State} {x k : Ix16} (h : k ≤ x) : (indexAddr s k.val, s.reg k) ∈ regWrites s x :=
  List.mem_map_of_mem (f := fun k : Ix16 => (indexAddr s k.val, s.reg k)) ((mem_ixUpTo x k).2 h)

/-- LD [I], Vx that leaves no fault has stored its registers, at addresses that all map (R144, R193). -/
theorem execLdMemVx_ok {x : Ix16} {s t : State} (h : execLdMemVx x s = .next t) (ht : t.fault = none) :
    t = { s with mem := memAfterRegWrites s x } ∧
    ∀ k, k ≤ x → s.cfg.addrPolicy = .wrap ∨ indexAddr s k.val ≤ 0xFFF := by
  obtain hr | ⟨k, -, rfl⟩ := conclude_next h
  · cases hm : storeBytes s.cfg.addrPolicy s.mem (regWrites s x) with
    | error k => rw [hm] at hr; cases hr
    | ok m =>
      rw [hm] at hr
      obtain ⟨rfl, hok⟩ := storeBytes_ok hm
      exact ⟨(Except.ok.inj hr).symm, fun k hk => hok _ (mem_regWrites hk)⟩
  · cases ht

/-- At most sixteen consecutive addresses map to different bytes of memory, also across the wrap (R64). -/
theorem nodup_mapped_regWrites (s : State) (x : Ix16) :
    (((regWrites s x).map fun w => (w.1 % memSize, w.2)).map Prod.fst).Nodup := by
  rw [regWrites, List.map_map, List.map_map]
  refine (nodup_ixUpTo x).map fun k j (h : indexAddr s k.val % 4096 = indexAddr s j.val % 4096) => Fin.ext ?_
  simp only [indexAddr] at h
  omega

/-- Each register stored by LD [I], Vx is read back at its address (R144). -/
theorem read_memAfterRegWrites (s : State) {x k : Ix16} (h : k ≤ x) :
    (memAfterRegWrites s x).read (indexAddr s k.val % memSize) = s.reg k :=
  Memory.read_writeAll_mem _ _ _ _ (nodup_mapped_regWrites s x)
    (List.mem_map_of_mem (f := fun w : Nat × Byte => (w.1 % memSize, w.2)) (mem_regWrites h))

/-- Settles O47: the fetch reads, at PC and PC + 1, the two registers stored there. -/
theorem storedWordIsFetched : Obligations.StoredWordIsFetched := by
  intro x k j s t u hj hjx _ h ht _ hmem hcfg hpc
  have hkx : k ≤ x := le_trans (Fin.le_def.2 (by omega)) hjx
  obtain ⟨rfl, hmaps⟩ := execLdMemVx_ok h ht
  have hpcj : u.pc.toNat + 1 = indexAddr s j.val := by rw [hpc, hj]; rfl
  have hok : u.cfg.addrPolicy = .wrap ∨ u.pc.toNat + 1 ≤ 0xFFF := by
    rw [hcfg, hpcj]; exact hmaps j hjx
  have hhigh : u.mem.read (u.pc.toNat % memSize) = s.reg k := by
    rw [hmem, hpc]; exact read_memAfterRegWrites s hkx
  have hlow : u.mem.read ((u.pc.toNat + 1) % memSize) = s.reg j := by
    rw [hmem, hpcj]; exact read_memAfterRegWrites s hjx
  rw [fetch_of_ok hok, hhigh, hlow]

end Sys2Proof.Machine

/-!
PROOFS. The decoder and the encoder (spec/30_encoding.md): an instruction that the decoder reads has its word's fields as operands
and a row of spec/opcode_table.json that selects the word, and a row that selects a word is the row of what the decoder reads.
-/

namespace Sys2Proof

/-! ### The fields that a row of the opcode table reads

A mask keeps whole fields, so a row compares fields of the word with fields of its pattern (spec/INDEX.md, R73). -/

theorem fmtXYN_inj {o x y n o' x' y' n' : Nibble} :
    fmtXYN o x y n = fmtXYN o' x' y' n' ↔ o = o' ∧ x = x' ∧ y = y' ∧ n = n' :=
  ⟨fun h => ⟨by simpa using congrArg opField h, by simpa using congrArg xField h, by simpa using congrArg yField h,
    by simpa using congrArg nField h⟩, by rintro ⟨rfl, rfl, rfl, rfl⟩; rfl⟩

theorem fmtXI_inj {o x o' x' : Nibble} {nn nn' : Byte} : fmtXI o x nn = fmtXI o' x' nn' ↔ o = o' ∧ x = x' ∧ nn = nn' :=
  ⟨fun h => ⟨by simpa using congrArg opField h, by simpa using congrArg xField h, by simpa using congrArg nnField h⟩,
    by rintro ⟨rfl, rfl, rfl⟩; rfl⟩

@[simp] theorem and_F000_eq_iff (w p : Word) :
    w &&& 0xF000#16 = p ↔
      opField w = p.extractLsb' 12 4 ∧ 0x0#4 = p.extractLsb' 8 4 ∧ 0x0#4 = p.extractLsb' 4 4 ∧ 0x0#4 = p.extractLsb' 0 4 := by
  conv_lhs => rw [← fmtXYN_fields w, ← fmtXYN_fields p, mask_F000, fmtXYN_inj]
  rfl

@[simp] theorem and_F00F_eq_iff (w p : Word) :
    w &&& 0xF00F#16 = p ↔
      opField w = p.extractLsb' 12 4 ∧ 0x0#4 = p.extractLsb' 8 4 ∧ 0x0#4 = p.extractLsb' 4 4 ∧
        nField w = p.extractLsb' 0 4 := by
  conv_lhs => rw [← fmtXYN_fields w, ← fmtXYN_fields p, mask_F00F, fmtXYN_inj]
  rfl

@[simp] theorem and_F0FF_eq_iff (w p : Word) :
    w &&& 0xF0FF#16 = p ↔
      opField w = p.extractLsb' 12 4 ∧ 0x0#4 = p.extractLsb' 8 4 ∧ nnField w = p.extractLsb' 0 8 := by
  conv_lhs => rw [← fmtXI_fields w, ← fmtXI_fields p, fmtXI_eq, mask_F0FF, ← fmtXI_eq, fmtXI_inj]
  rfl

@[simp] theorem and_FFFF (w : Word) : w &&& 0xFFFF#16 = w := BitVec.and_allOnes

@[simp] theorem TableRow.selects_keyed (r : TableRow) (w : Word) :
    r.selects .keyed w = true ↔ w &&& r.keyedMask = r.keyedPattern := beq_iff_eq

@[simp] theorem TableRow.selects_exact (r : TableRow) (w : Word) :
    r.selects .exact w = true ↔ w &&& r.exactMask = r.exactPattern := beq_iff_eq

/-! ### The rows other than NOP's -/

theorem exists_instr_of_row : ∀ r ∈ tableRows, ∃ i : Instr, i.row = r := by
  simp [tableRows, tableRows0, tableRows8, tableRowsE]

theorem row_nop_notMem (v : Word) : (Instr.nop v).row ∉ tableRows :=
  (by decide : (Instr.nop 0).row ∉ tableRows)

theorem row_mem_or_nop (i : Instr) : i.row ∈ tableRows ∨ ∃ v, i = .nop v := by
  cases i with
  | nop v => exact .inr ⟨v, rfl⟩
  | _ => exact .inl (List.elem_iff.1 rfl)

/-- Only NOP can be ill formed, by carrying a word that another row selects (R80). -/
theorem wf_iff (m : DecodeMode) (i : Instr) : i.wf m = true ↔ ∀ v, i = .nop v → wordMapped m v = false := by
  cases i <;> simp [Instr.wf]

/-! ### What the decoder reads -/

/-- The operands are the word's fields (R71, R81); NOP's is the whole word (log entry 11). -/
@[simp] def Instr.OperandsOf (w : Word) : Instr → Prop
  | .cls | .ret => True
  | .jp nnn | .call nnn | .ldI nnn | .jpV0 nnn => nnn = nnnField w
  | .seImm x nn | .sneImm x nn | .ldImm x nn | .addImm x nn | .rnd x nn => nib x = xField w ∧ nn = nnField w
  | .seReg x y | .sneReg x y | .ldReg x y | .orReg x y | .andReg x y | .xorReg x y | .addReg x y | .sub x y | .shr x y
  | .subn x y | .shl x y => nib x = xField w ∧ nib y = yField w
  | .drw x y n => nib x = xField w ∧ nib y = yField w ∧ nib n = nField w
  | .skp x | .sknp x | .ldVxDt x | .ldVxK x | .ldDtVx x | .ldStVx x | .addI x | .ldF x | .ldB x | .ldMemVx x
  | .ldVxMem x => nib x = xField w
  | .nop v => v = w

/-- The instruction has the word's fields as operands, and its row of the opcode table selects the word in that mode. -/
@[simp] def Instr.ReadFrom (m : DecodeMode) (w : Word) (i : Instr) : Prop := i.OperandsOf w ∧ i.row.selects m w = true

section
variable {m : DecodeMode} {w : Word}

theorem decodeFamily0_readFrom (ho : opField w = 0x0#4) : (decodeFamily0 m w).ReadFrom m w := by
  cases m <;> simp only [decodeFamily0] <;> split_ifs <;> simp [Instr.row, *]

theorem decodeFamily8_readFrom (ho : opField w = 0x8#4) :
    (decodeFamily8 w (xField w).toFin (yField w).toFin).ReadFrom m w := by
  unfold decodeFamily8
  split <;> cases m <;> simp [Instr.row, *]

theorem decodeFamilyE_readFrom (ho : opField w = 0xE#4) : (decodeFamilyE m w (xField w).toFin).ReadFrom m w := by
  cases m <;> simp only [decodeFamilyE] <;> split_ifs <;> simp [Instr.row, *]

theorem decodeFamilyF_readFrom (ho : opField w = 0xF#4) : (decodeFamilyF w (xField w).toFin).ReadFrom m w := by
  unfold decodeFamilyF
  split <;> cases m <;> simp [Instr.row, *]

theorem decodeLowNibble0_readFrom {i : Instr} (hk : i.ReadFrom .keyed w) (he : nField w = 0x0#4 → i.ReadFrom .exact w) :
    (decodeLowNibble0 m w i).ReadFrom m w := by
  cases m with
  | keyed => exact hk
  | exact =>
    simp only [decodeLowNibble0]
    split_ifs with hn
    · exact he hn
    · simp [Instr.row]

end

/-- Every word is read by its own fields, whatever family its op selects (R73, R81). -/
theorem decode_readFrom (m : DecodeMode) (w : Word) : (decode m w).ReadFrom m w := by
  unfold decode
  split
  case h_1 ho => exact decodeFamily0_readFrom ho
  case h_6 ho | h_10 ho =>
    refine decodeLowNibble0_readFrom ?_ fun hn => ?_ <;> simp [Instr.row, *]
  case h_9 ho => exact decodeFamily8_readFrom ho
  case h_15 ho => exact decodeFamilyE_readFrom ho
  case h_16 =>
    -- the decoder's default case takes the one op that is left
    have ho : opField w = 0xF#4 := by
      simp only [imp_false] at *
      bv_omega
    exact decodeFamilyF_readFrom ho
  all_goals cases m <;> simp [Instr.row, *]

theorem eq_of_decode_eq_nop {m : DecodeMode} {w v : Word} (h : decode m w = .nop v) : v = w := by
  have hread := (decode_readFrom m w).1
  rwa [h] at hread

/-! ### The canonical word -/

/-- Under Exact a row compares every field that is no operand of its instructions. -/
theorem encode_of_readFrom {w : Word} {i : Instr} (h : i.ReadFrom .exact w) : encode i = w := by
  obtain ⟨hops, hrow⟩ := h
  cases i with
  | cls | ret =>
    obtain rfl : w = _ := by simpa [Instr.row] using hrow
    rfl
  | nop _ => exact hops
  | jp nnn | call nnn | ldI nnn | jpV0 nnn =>
    obtain hop : opField w = _ := by simpa [Instr.row] using hrow
    rw [encode, ← hop, (hops : nnn = _), fmtA_fields]
  | seImm x nn | sneImm x nn | ldImm x nn | addImm x nn | rnd x nn =>
    obtain hop : opField w = _ := by simpa [Instr.row] using hrow
    obtain ⟨hx, hnn⟩ := hops
    rw [encode, ← hop, hx, hnn, fmtXI_fields]
  | drw x y n =>
    obtain hop : opField w = _ := by simpa [Instr.row] using hrow
    obtain ⟨hx, hy, hn⟩ := hops
    rw [encode, ← hop, hx, hy, hn, fmtXYN_fields]
  | seReg x y | sneReg x y | ldReg x y | orReg x y | andReg x y | xorReg x y | addReg x y | sub x y | shr x y
  | subn x y | shl x y =>
    obtain ⟨hop, hn⟩ : opField w = _ ∧ nField w = _ := by simpa [Instr.row] using hrow
    obtain ⟨hx, hy⟩ := hops
    rw [encode, ← hop, hx, hy, ← hn, fmtXYN_fields]
  | skp x | sknp x | ldVxDt x | ldVxK x | ldDtVx x | ldStVx x | addI x | ldF x | ldB x | ldMemVx x | ldVxMem x =>
    obtain ⟨hop, hnn⟩ : opField w = _ ∧ nnField w = _ := by simpa [Instr.row] using hrow
    rw [encode, ← hop, (hops : nib x = _), ← hnn, fmtXI_fields]

/-- Settles O3: what the Exact decoder reads has every field of its word, as an operand or in its row's pattern. -/
theorem exactDecodeKeepsTheWord : Obligations.ExactDecodeKeepsTheWord := fun w =>
  encode_of_readFrom (decode_readFrom .exact w)

/-! ### The row that selects a word -/

/-- A row other than NOP's that selects a word leads the decoder to an instruction of that row. -/
theorem row_decode_of_selects {m : DecodeMode} {w : Word} {i : Instr} (hi : i.row ∈ tableRows)
    (h : i.row.selects m w = true) : (decode m w).row = i.row := by
  cases i with
  | nop v => exact absurd hi (row_nop_notMem v)
  | cls | ret =>
    cases m with
    | keyed =>
      obtain ⟨hop, hn⟩ : opField w = _ ∧ nField w = _ := by simpa [Instr.row] using h
      simp [decode, decodeFamily0, hop, hn]
    | exact =>
      obtain rfl : w = _ := by simpa [Instr.row] using h
      rfl
  | seReg _ _ | sneReg _ _ =>
    cases m with
    | keyed =>
      obtain hop : opField w = _ := by simpa [Instr.row] using h
      simp [decode, decodeLowNibble0, hop, Instr.row]
    | exact =>
      obtain ⟨hop, hn⟩ : opField w = _ ∧ nField w = _ := by simpa [Instr.row] using h
      simp [decode, decodeLowNibble0, hop, hn, Instr.row]
  | skp _ | sknp _ =>
    cases m with
    | keyed =>
      obtain ⟨hop, hn⟩ : opField w = _ ∧ nField w = _ := by simpa [Instr.row] using h
      simp [decode, decodeFamilyE, hop, hn, Instr.row]
    | exact =>
      obtain ⟨hop, hnn⟩ : opField w = _ ∧ nnField w = _ := by simpa [Instr.row] using h
      simp [decode, decodeFamilyE, hop, hnn, Instr.row]
  | jp _ | call _ | seImm _ _ | sneImm _ _ | ldImm _ _ | addImm _ _ | ldI _ | jpV0 _ | rnd _ _ | drw _ _ _ =>
    obtain hop : opField w = _ := by cases m <;> simpa [Instr.row] using h
    simp [decode, hop, Instr.row]
  | ldReg _ _ | orReg _ _ | andReg _ _ | xorReg _ _ | addReg _ _ | sub _ _ | shr _ _ | subn _ _ | shl _ _ =>
    obtain ⟨hop, hn⟩ : opField w = _ ∧ nField w = _ := by cases m <;> simpa [Instr.row] using h
    simp [decode, decodeFamily8, hop, hn, Instr.row]
  | ldVxDt _ | ldVxK _ | ldDtVx _ | ldStVx _ | addI _ | ldF _ | ldB _ | ldMemVx _ | ldVxMem _ =>
    obtain ⟨hop, hnn⟩ : opField w = _ ∧ nnField w = _ := by cases m <;> simpa [Instr.row] using h
    simp [decode, decodeFamilyF, hop, hnn, Instr.row]

/-- Settles O5, by the row that each instruction belongs to. -/
theorem tableRowDecides : Obligations.TableRowDecides := by
  intro m w r hr h
  obtain ⟨i, rfl⟩ := exists_instr_of_row r hr
  exact row_decode_of_selects hr h

/-- The decoder answers NOP for exactly the words that no other row selects (R80). -/
theorem decode_eq_nop_iff (m : DecodeMode) (w : Word) : decode m w = .nop w ↔ wordMapped m w = false := by
  rw [← Bool.not_eq_true, wordMapped, List.any_eq_true]
  constructor
  · rintro hnop ⟨r, hr, hsel⟩
    refine row_nop_notMem w ?_
    rwa [← hnop, tableRowDecides m w r hr hsel]
  · intro hunmapped
    obtain hmem | ⟨v, hv⟩ := row_mem_or_nop (decode m w)
    · exact absurd ⟨_, hmem, (decode_readFrom m w).2⟩ hunmapped
    · rw [hv, eq_of_decode_eq_nop hv]

theorem wf_decode (m : DecodeMode) (w : Word) : (decode m w).wf m = true := by
  refine (wf_iff m _).2 fun v hv => ?_
  obtain rfl := eq_of_decode_eq_nop hv
  exact (decode_eq_nop_iff m v).1 hv

/-- Settles O4, by the rows of what each family of the decoder answers. -/
theorem decodeSelectsTheTableRow : Obligations.DecodeSelectsTheTableRow := fun m w =>
  ⟨wf_decode m w, (decode_readFrom m w).2⟩

/-! ### Decoding the canonical word -/

/-- An instruction other than NOP is read back from its canonical word in both modes (R81, R83). -/
theorem decode_encode_of_mem (m : DecodeMode) {i : Instr} (hi : i.row ∈ tableRows) : decode m (encode i) = i := by
  cases i with
  | nop v => exact absurd hi (row_nop_notMem v)
  | cls | ret => cases m <;> rfl
  | seReg _ _ | sneReg _ _ => cases m <;> simp [encode, decode, decodeLowNibble0]
  | skp _ | sknp _ => cases m <;> simp [encode, decode, decodeFamilyE]
  | ldReg _ _ | orReg _ _ | andReg _ _ | xorReg _ _ | addReg _ _ | sub _ _ | shr _ _ | subn _ _ | shl _ _ =>
    simp [encode, decode, decodeFamily8]
  | ldVxDt _ | ldVxK _ | ldDtVx _ | ldStVx _ | addI _ | ldF _ | ldB _ | ldMemVx _ | ldVxMem _ =>
    simp [encode, decode, decodeFamilyF]
  | jp _ | call _ | seImm _ _ | sneImm _ _ | ldImm _ _ | addImm _ _ | ldI _ | jpV0 _ | rnd _ _ | drw _ _ _ =>
    simp [encode, decode]

/-- Settles O2: the fields of a canonical word lead the decoder back, and a well-formed NOP carries an unmapped word. -/
theorem decodeEncode : Obligations.DecodeEncode := by
  intro m i hwf
  obtain hmem | ⟨v, rfl⟩ := row_mem_or_nop i
  · exact decode_encode_of_mem m hmem
  · exact (decode_eq_nop_iff m v).2 ((wf_iff m _).1 hwf v rfl)

/-- Settles O6: a word that Exact maps is the canonical word of what it decodes to, which both modes read alike. -/
theorem standardWordsAgree : Obligations.StandardWordsAgree := by
  intro w hmapped
  obtain hmem | ⟨v, hv⟩ := row_mem_or_nop (decode .exact w)
  · calc decode .keyed w
      _ = decode .keyed (encode (decode .exact w)) := by rw [exactDecodeKeepsTheWord w]
      _ = decode .exact w := decode_encode_of_mem .keyed hmem
  · exact absurd (eq_of_decode_eq_nop hv ▸ hv) hmapped

/-- Settles O1, by running the decoder on the fifteen words of its clauses. -/
theorem sampleWordsDecode : Obligations.SampleWordsDecode := by
  unfold Obligations.SampleWordsDecode
  decide

end Sys2Proof

/-!
PROOFS. The handler of an unmapped word (R80, R116).
-/

namespace Sys2Proof.Machine

theorem raise_raisesOnly (k : FaultKind) (s : State) : RaisesOnly k s (raise k s) :=
  ⟨⟨_, rfl, rfl⟩, frame_raise k s⟩

theorem execNop_noOp {s : State} (w : Word) (h : s.cfg.unmappedPolicy = .noOp) : execNop w s = .next s := by
  rw [execNop, h]

theorem execNop_fault {s : State} (w : Word) (h : s.cfg.unmappedPolicy = .fault) :
    execNop w s = .next (raise .unmappedOpcode s) := by
  rw [execNop, h]

/-- Settles O31, by what the handler answers under each policy. -/
theorem nopResult : Obligations.NopResult := fun w s =>
  ⟨fun h => ⟨s, execNop_noOp w h, Frame.refl s⟩, fun h => ⟨_, execNop_fault w h, raise_raisesOnly _ s⟩⟩

end Sys2Proof.Machine

/-!
PROOFS. The cycle driver (spec/40_cycle_driver.md): what the timer step does, the Cycle of a decoded instruction, a fetch that
faults, and where PC is after a Cycle that completes (R90 to R97).
-/

namespace Sys2Proof.Machine

/-! ### The timer step -/

@[simp] theorem toNat_countDown (b : Byte) : (countDown b).toNat = b.toNat - 1 := by
  unfold countDown
  split
  · next h => rw [h]; rfl
  · next h => bv_omega

/-- The timer step takes one off each nonzero timer, and raises and counts the tone exactly when ST was 1 (R94, R95). -/
theorem tickTimers_counts (u : State) :
    (tickTimers u).dt.toNat = u.dt.toNat - 1 ∧ (tickTimers u).st.toNat = u.st.toNat - 1 ∧
    ((tickTimers u).tone = true ↔ u.st = 1) ∧
    (tickTimers u).toneCount = u.toneCount + (if u.st = 1 then 1 else 0) := by
  refine ⟨toNat_countDown u.dt, toNat_countDown u.st, decide_eq_true_iff, ?_⟩
  rw [tickTimers_toneCount]
  split <;> rfl

theorem frame_tickTimers (u : State) : Frame [.delay, .sound, .tone, .toneCount] [] u (tickTimers u) :=
  ⟨fun p hp => by cases p <;> simp_all [SamePart], fun _ _ => rfl⟩

/-! ### The Cycle around an instruction -/

/-- A stop of the instruction is a stop of the Cycle. -/
theorem step_of_stop {s : State} {w : Word} {r : Fault} (hf : s.fault = none) (hw : fetch s = .ok w)
    (hr : exec (decode s.cfg.decodeMode w) (beginExecute w s) = .fault r) : step s = .fault r := by
  simp [step, finishCycle, hf, hw, hr]

/-- Settles O7: the Cycle ends with the timer step unless the instruction leaves a fault. -/
theorem stepRunsTheDecodedInstruction : Obligations.StepRunsTheDecodedInstruction := by
  refine fun s w hf hw => ⟨fun u hu => ⟨fun hq => ?_, fun hq => ?_⟩, fun r => step_of_stop hf hw⟩
  · obtain ⟨hdt, hst, htone, hcount⟩ := tickTimers_counts u
    have hstep : step s = .next (tickTimers u) := by simpa [hq] using step_of_exec hf hw hu
    exact ⟨tickTimers u, rfl, hstep, hdt, hst, htone, hcount, frame_tickTimers u⟩
  · simpa [Option.isSome_iff_ne_none.2 hq] using step_of_exec hf hw hu

/-- A Cycle that completes is the timer step after the instruction, which leaves no fault (R93). -/
theorem step_completes {i : Instr} {s t : State} (hrun : Runs i s) (h : step s = .next t) (ht : t.fault = none) :
    ∃ w u, exec i (beginExecute w s) = .next u ∧ u.fault = none ∧ t = tickTimers u := by
  obtain ⟨hf, w, hw, rfl⟩ := hrun
  obtain ⟨hf', -⟩ | ⟨-, k, hk, -⟩ | ⟨-, w', u, hw', hu, ⟨hq, rfl⟩ | ⟨hq, rfl⟩⟩ := step_cases h
  · exact absurd hf hf'
  · cases hk.symm.trans hw
  · exact absurd ht hq
  · cases hw'.symm.trans hw
    exact ⟨w, u, hu, hq, rfl⟩

/-! ### What the tables of a Cycle read

What the driver writes before the instruction (PC, IR, no tone) is not read by the tables of R94, R95 and R97. -/

@[simp] theorem delayBeforeTick_beginExecute (i : Instr) (w : Word) (s : State) :
    delayBeforeTick i (beginExecute w s) = delayBeforeTick i s := rfl

@[simp] theorem soundBeforeTick_beginExecute (i : Instr) (w : Word) (s : State) :
    soundBeforeTick i (beginExecute w s) = soundBeforeTick i s := rfl

@[simp] theorem pcAfter_beginExecute (i : Instr) (w : Word) (s : State) (a : Word) :
    pcAfter i (beginExecute w s) a = pcAfter i s a := rfl

/-! ### A fetch that faults -/

theorem frame_raiseFetch (k : FaultKind) (s : State) : Frame [.fault, .tone] [] s (raiseFetch k s) :=
  ⟨fun p hp => by cases p <;> simp_all [SamePart], fun _ _ => rfl⟩

/-- Settles O9: the Cycle ends with the record of the fetch's fault. -/
theorem fetchFault : Obligations.FetchFault := fun s k hf hk =>
  ⟨raiseFetch k s, step_of_fetch_error hf hk, rfl, rfl, frame_raiseFetch k s⟩

/-! ### The timers over a Cycle -/

/-- Only LD DT sets DT (R28). -/
theorem exec_delay {i : Instr} {s u : State} (h : exec i s = .next u) : u.dt = delayBeforeTick i s := by
  cases i with
  | ldDtVx x => cases h; rfl
  | _ => exact onlyNamedWriters _ _ _ h .delay (by simp [partsWritten])

/-- Only LD ST sets ST (R29). -/
theorem exec_sound {i : Instr} {s u : State} (h : exec i s = .next u) : u.st = soundBeforeTick i s := by
  cases i with
  | ldStVx x => cases h; rfl
  | _ => exact onlyNamedWriters _ _ _ h .sound (by simp [partsWritten])

/-- No instruction counts a tone: that is the timer step's (R37). -/
theorem exec_toneCount {i : Instr} {s u : State} (h : exec i s = .next u) : u.toneCount = s.toneCount :=
  onlyNamedWriters _ _ _ h .toneCount (by cases i <;> simp [partsWritten])

/-- Settles O12: the timer step counts down what the instruction left in DT and ST. -/
theorem timersCountCycles : Obligations.TimersCountCycles := by
  intro i s t hrun h ht
  obtain ⟨w, u, hu, -, rfl⟩ := step_completes hrun h ht
  simpa only [exec_delay hu, exec_sound hu, exec_toneCount hu, delayBeforeTick_beginExecute,
    soundBeforeTick_beginExecute, beginExecute_toneCount] using tickTimers_counts u

/-! ### PC after an instruction that completes

Each handler begins with PC two past the fetch address `a` (R91); the targets of RET and CALL do not depend on it. -/

/-- A handler that leaves no fault has computed its state. -/
theorem conclude_completes {s t : State} {r : Except FaultKind State} (h : conclude s r = .next t) (ht : t.fault = none) :
    r = .ok t := by
  obtain hr | ⟨k, -, rfl⟩ := conclude_next h
  · exact hr
  · cases ht

theorem keyDown_of_reg {s : State} {x k : Ix16} (h : (s.reg x).toNat = k.val) : keyDown s x = s.key[k] := by
  simp [keyDown, h]

/-- A least pressed key exists exactly when some key is pressed (R172). -/
theorem isSome_leastKey (key : Vector Bool 16) : (leastKey key).isSome = allIx.any fun k => key[k] :=
  List.isSome_find?

section
variable {s t : State} {a : Word}

theorem execRet_pc (ht : t.fault = none) (h : execRet s = .next t) : t.pc = pcAfter .ret s a := by
  unfold execRet at h
  split at h
  · cases h; cases ht
  · split at h
    · next k hk => cases h; rw [pcAfter, hk]
    · cases h

theorem execCall_pc {nnn : Addr12} (ht : t.fault = none) (h : execCall nnn s = .next t) : t.pc = pcAfter (.call nnn) s a := by
  unfold execCall at h
  split at h
  · cases h; cases ht
  · split at h
    · cases h; rfl
    · cases h

variable (ha : s.pc = a + 2)
include ha

/-- Skipping moves PC two further (R100). -/
theorem pc_skip_if (c : Prop) [Decidable c] : (if c then s.skip else s).pc = if c then a + 4 else a + 2 := by
  split
  · rw [State.skip_pc, ha, BitVec.add_assoc]; rfl
  · exact ha

/-- A skip on a key level tests the key that V[x] names (R170, R171). -/
theorem skipOnKey_pc {level : Bool} {x : Ix16} (ht : t.fault = none)
    (h : conclude s (skipOnKey level x s) = .next t) :
    t.pc = if keyDown s x = level then a + 4 else a + 2 := by
  have hok : skipOnKey level x s = .ok t := conclude_completes h ht
  obtain ⟨-, e⟩ | ⟨k, hk, e⟩ := skipOnKey_cases level x s
  · cases e.symm.trans hok
  · obtain rfl := Except.ok.inj (e.symm.trans hok)
    rw [keyDown_of_reg hk]
    exact pc_skip_if ha _

theorem execLdVxK_pc {x : Ix16} (h : execLdVxK x s = .next t) : t.pc = pcAfter (.ldVxK x) s a := by
  cases h
  rw [pcAfter, ← isSome_leastKey]
  cases leastKey s.key with
  | some k => exact ha
  | none => simp [ha]

/-- Every instruction that leaves no fault moves PC as the table of R97 says. -/
theorem exec_pc {i : Instr} (ht : t.fault = none) (h : exec i s = .next t) : t.pc = pcAfter i s a := by
  cases i with
  | ret => exact execRet_pc ht h
  | call nnn => exact execCall_pc ht h
  | jp nnn => cases h; rfl
  | jpV0 nnn => cases h; simp [pcAfter, zext8, zext12, BitVec.ofNat_add]
  | seImm _ _ | seReg _ _ => cases h; exact pc_skip_if ha _
  | sneImm _ _ | sneReg _ _ => cases h; exact (pc_skip_if ha _).trans (ite_not ..)
  | skp x => exact skipOnKey_pc ha ht h
  | sknp x =>
    have hpc := skipOnKey_pc ha ht h
    cases hk : keyDown s x <;> simpa [pcAfter, hk] using hpc
  | ldVxK x => exact execLdVxK_pc ha h
  | _ => exact (onlyNamedWriters _ _ _ h .pc (by simp [partsWritten])).trans ha

end

/-- Settles O13: the timer step leaves PC where the instruction put it. -/
theorem pcMovement : Obligations.PcMovement := by
  intro i s t hrun h ht
  obtain ⟨w, u, hu, hq, rfl⟩ := step_completes hrun h ht
  calc u.pc
    _ = pcAfter i (beginExecute w s) s.pc := exec_pc rfl hq hu
    _ = pcAfter i s s.pc := pcAfter_beginExecute i w s s.pc

end Sys2Proof.Machine

/-!
PROOFS. Control flow (spec/41_control_flow.md): what CALL and RET do to the stack, the jumps and the skips. PC in a meaning is
the fetch address + 2 (R91).
-/

namespace Sys2Proof.Machine

theorem toNat_zext12 (nnn : Addr12) : (zext12 nnn).toNat = nnn.toNat :=
  BitVec.toNat_setWidth_of_le (by decide)

/-! ### CALL and RET -/

theorem execCall_full {s : State} (nnn : Addr12) (h : s.sp = 16) : execCall nnn s = .next (raise .stackOverflow s) :=
  if_pos h

/-- With SP = k below 16, CALL pushes the advanced PC as entry k (R103). -/
theorem execCall_push {s : State} {k : Ix16} (nnn : Addr12) (h : s.sp.toNat = k.val) :
    execCall nnn s = .next { s.push k s.pc with pc := zext12 nnn } := by
  have hfull : s.sp ≠ 16 := by have := k.isLt; bv_omega
  rw [execCall, if_neg hfull, stackEntry_eq_some.2 h]

theorem execRet_empty {s : State} (h : s.sp = 0) : execRet s = .next (raise .stackUnderflow s) :=
  if_pos h

/-- SP - 1 counts the entries below the last one. -/
theorem toNat_sp_sub_one {sp : Byte} {k : Nat} (h : sp.toNat = k + 1) : (sp - 1).toNat = k := by
  bv_omega

/-- With SP = k + 1 at most 16, RET jumps to entry k (R101). -/
theorem execRet_pop {s : State} {k : Ix16} (h : s.sp.toNat = k.val + 1) :
    execRet s = .next { s with sp := s.sp - 1, pc := s.stack[k] } := by
  have hempty : s.sp ≠ 0 := by bv_omega
  rw [execRet, if_neg hempty, stackEntry_eq_some.2 (toNat_sp_sub_one h)]

/-- A push counts one more entry, which an SP below 16 does not wrap (R27). -/
theorem toNat_sp_push {s : State} {k : Ix16} (w : Word) (h : s.sp.toNat = k.val) : (s.push k w).sp.toNat = k.val + 1 := by
  have := k.isLt
  rw [State.push_sp]
  bv_omega

/-- A push writes the entry it names and keeps the others (R103). -/
theorem getElem_stack_push (s : State) (k j : Ix16) (w : Word) :
    (s.push k w).stack[j] = if j = k then w else s.stack[j] := by
  simp [Vector.getElem_set, Fin.ext_iff, eq_comm]

/-- Settles O26, by what CALL answers below and at 16 live entries. -/
theorem callResult : Obligations.CallResult := by
  refine fun m nnn s => ⟨decodeEncode m (.call nnn) rfl, fun k hk => ?_, fun hfull => ?_⟩
  · exact ⟨_, execCall_push nnn hk, (getElem_stack_push s k k s.pc).trans (if_pos rfl),
      fun j hj => (getElem_stack_push s k j s.pc).trans (if_neg hj), toNat_sp_push s.pc hk, toNat_zext12 nnn,
      frame_push_pc s k _ _⟩
  · exact ⟨_, execCall_full nnn hfull, raise_raisesOnly _ s⟩

/-- The words 0nnE lead the Keyed decoder to RET whatever the two middle nibbles are (R74). -/
theorem decode_ret_keyed (x y : Nibble) : decode .keyed (fmtXYN 0x0#4 x y 0xE#4) = .ret := by
  simp [decode, decodeFamily0]

/-- Settles O27, by what RET answers with some live entry and with none. -/
theorem returnResult : Obligations.ReturnResult := by
  refine ⟨fun m => decodeEncode m .ret rfl, fun nn => decode_ret_keyed _ _, fun s => ⟨fun k hk => ?_, fun hempty => ?_⟩⟩
  · exact ⟨_, execRet_pop hk, toNat_sp_sub_one hk, rfl, frame_sp_pc s _ _⟩
  · exact ⟨_, execRet_empty hempty, raise_raisesOnly _ s⟩

/-- Settles O28: RET pops the entry that CALL pushed, wherever the two states differ elsewhere. -/
theorem callReturnRoundTrip : Obligations.CallReturnRoundTrip := by
  refine fun nnn s k hk => ⟨_, execCall_push nnn hk, fun u hsp hentry => ?_⟩
  replace hsp : u.sp = s.sp + 1 := hsp
  have hlive : u.sp.toNat = k.val + 1 := hsp ▸ toNat_sp_push s.pc hk
  have hpc : u.stack[k] = s.pc := hentry.trans ((getElem_stack_push s k k s.pc).trans (if_pos rfl))
  have hback : u.sp - 1 = s.sp := by rw [hsp, BitVec.add_sub_cancel]
  exact ⟨_, execRet_pop hlive, hpc, hback⟩

/-! ### Jumps -/

/-- Settles O24: JP writes PC alone, the target zero-extended. -/
theorem jumpResult : Obligations.JumpResult := fun m nnn s =>
  ⟨decodeEncode m (.jp nnn) rfl, _, rfl, toNat_zext12 nnn, frame_pc s _⟩

/-- V0 + NNN is at most 0x10FE, so the sum of R108 does not wrap. -/
theorem toNat_zext8_add_zext12 (b : Byte) (nnn : Addr12) : (zext8 b + zext12 nnn).toNat = b.toNat + nnn.toNat := by
  rw [zext8, zext12]
  bv_omega

/-- Settles O25: JP V0 writes PC alone, a sum that does not wrap. -/
theorem jumpOffsetResult : Obligations.JumpOffsetResult := fun m nnn s =>
  ⟨decodeEncode m (.jpV0 nnn) rfl, _, rfl, toNat_zext8_add_zext12 (s.reg 0) nnn, frame_pc s _⟩

/-! ### Skips -/

/-- An instruction that answers "skip when `c`" moves PC by two when `c` holds and changes nothing else (R100). -/
theorem skip_if_result (s : State) (c : Prop) [Decidable c] :
    ∃ t, (.next (if c then s.skip else s) : Host.Outcome State Fault Refusal) = .next t ∧
      t.pc = (if c then s.pc + 2 else s.pc) ∧ Frame [.pc] [] s t :=
  ⟨_, rfl, apply_ite State.pc c s.skip s, frame_skip_if s c⟩

/-- The same of an instruction that skips when `c` fails. -/
theorem skip_if_not_result (s : State) (c : Prop) [Decidable c] :
    ∃ t, (.next (if ¬ c then s.skip else s) : Host.Outcome State Fault Refusal) = .next t ∧
      t.pc = (if c then s.pc else s.pc + 2) ∧ Frame [.pc] [] s t := by
  simpa only [ite_not] using skip_if_result s (¬ c)

/-- Settles O29: both words are canonical, and one condition decides both skips. -/
theorem skipOnImmediate : Obligations.SkipOnImmediate := fun m x nn s =>
  ⟨decodeEncode m (.seImm x nn) rfl, decodeEncode m (.sneImm x nn) rfl, skip_if_result s (s.reg x = nn),
    skip_if_not_result s (s.reg x = nn)⟩

/-- The words 5xyK lead the Keyed decoder to SE Vx, Vy whatever K is (R78). -/
theorem decode_seReg_keyed (x y : Ix16) (k : Nibble) : decode .keyed (fmtXYN 0x5#4 (nib x) (nib y) k) = .seReg x y := by
  simp [decode, decodeLowNibble0]

/-- The words 9xyK lead the Keyed decoder to SNE Vx, Vy whatever K is (R78). -/
theorem decode_sneReg_keyed (x y : Ix16) (k : Nibble) : decode .keyed (fmtXYN 0x9#4 (nib x) (nib y) k) = .sneReg x y := by
  simp [decode, decodeLowNibble0]

/-- Settles O30: under Keyed the low nibble is not read, and one condition decides both skips. -/
theorem skipOnRegisters : Obligations.SkipOnRegisters := fun m x y k s =>
  ⟨decodeEncode m (.seReg x y) rfl, decode_seReg_keyed x y k, decodeEncode m (.sneReg x y) rfl, decode_sneReg_keyed x y k,
    skip_if_result s (s.reg x = s.reg y), skip_if_not_result s (s.reg x = s.reg y)⟩

end Sys2Proof.Machine

/-!
PROOFS. Loads, arithmetic, logic and shifts (spec/42_alu.md). An instruction without a flag writes its destination alone; one with
a flag is writeRF of a result and a flag (R121), so what remains of each is the value of the two bytes.
-/

namespace Sys2Proof.Machine

/-! ### The flags as bytes -/

theorem flagByte_decide (c : Prop) [Decidable c] : flagByte (decide c) = if c then 1 else 0 := by
  simp [flagByte]

/-- VF after ADD: 1 exactly on a carry (R128). -/
theorem carryFlag_eq (a b : Byte) : carryFlag a b = if a.toNat + b.toNat > 255 then 1 else 0 := flagByte_decide _

/-- VF after SUB and SUBN: 0 exactly on a borrow (R129, R131). -/
theorem noBorrowFlag_eq (a b : Byte) : noBorrowFlag a b = if a.toNat < b.toNat then 0 else 1 := by
  rw [noBorrowFlag, ← decide_not, flagByte_decide, ite_not]

/-- VF after SHR: the bit shifted out is V[x] mod 2 (R130). -/
theorem shrFlag_eq (a : Byte) : shrFlag a = if a.toNat % 2 = 1 then 1 else 0 := by
  have hbit : a.getLsbD 0 = decide (a.toNat % 2 = 1) := Nat.testBit_zero _
  rw [shrFlag, show 0x01#8 = BitVec.twoPow 8 0 from rfl, BitVec.and_twoPow, hbit]
  simp only [decide_eq_true_eq]
  rfl

/-- VF after SHL under Raw: bit 7 in its own place (R132). -/
theorem shlFlag_raw_eq (a : Byte) : shlFlag .raw a = if 128 ≤ a.toNat then 0x80#8 else 0 := by
  have hbit : a.getLsbD 7 = decide (128 ≤ a.toNat) := BitVec.msb_eq_decide a
  rw [shlFlag, show 0x80#8 = BitVec.twoPow 8 7 from rfl, BitVec.and_twoPow, hbit]
  simp only [decide_eq_true_eq]
  rfl

/-- VF after SHL under Normalized: bit 7 as 0 or 1, the byte over 128 (R132). -/
theorem shlFlag_normalized_eq (a : Byte) : shlFlag .normalized a = if 128 ≤ a.toNat then 1 else 0 := by
  have h : (shlFlag .normalized a).toNat = a.toNat / 128 := by simp [shlFlag, Nat.shiftRight_eq_div_pow]
  split <;> bv_omega

/-! ### The results as numbers -/

theorem toNat_byte_sub (a b : Byte) : (a - b).toNat = (a.toNat + 256 - b.toNat) % 256 := by
  bv_omega

theorem toNat_byte_shiftRight_one (a : Byte) : (a >>> 1).toNat = a.toNat / 2 :=
  BitVec.toNat_ushiftRight a 1

theorem toNat_byte_shiftLeft_one (a : Byte) : (a <<< 1).toNat = a.toNat * 2 % 256 := by
  rw [BitVec.toNat_shiftLeft, Nat.shiftLeft_eq]

/-! ### writeRF -/

/-- writeRF writes its result and its flag by R121's rule and nothing else. -/
theorem resultFlag_writeRF (s : State) (d : Ix16) {result flag f : Byte} {n : Nat} (hn : result.toNat = n) (hf : flag = f) :
    ResultFlag d n f s (s.writeRF d result flag) := by
  subst hn hf
  refine ⟨fun hd => ⟨?_, reg_vf_writeRF s result flag hd⟩, fun hd ho => ?_, fun hd ho => ?_, frame_writeRF s d result flag⟩
  · rw [reg_writeRF, if_pos ⟨rfl, .inl hd⟩]
  · rw [reg_writeRF, if_neg (by simp [hd, ho]), if_pos rfl]
  · rw [reg_writeRF, if_pos ⟨hd.symm, .inr ho⟩]

/-- A difference and its borrow flag, as SUB and SUBN write them (R129, R131). -/
theorem resultFlag_sub (s : State) (d : Ix16) (a b : Byte) :
    ResultFlag d ((a.toNat + 256 - b.toNat) % 256) (if a.toNat < b.toNat then 0 else 1) s
      (s.writeRF d (a - b) (noBorrowFlag a b)) :=
  resultFlag_writeRF s d (toNat_byte_sub a b) (noBorrowFlag_eq a b)

/-! ### Arithmetic and shifts with a flag -/

/-- Settles O35: the sum of bytes is the sum modulo 256, and the flag its carry. -/
theorem addResult : Obligations.AddResult := fun m x y s =>
  ⟨decodeEncode m (.addReg x y) rfl, _, rfl, resultFlag_writeRF s x (BitVec.toNat_add _ _) (carryFlag_eq _ _)⟩

/-- Settles O36: a difference and its borrow flag for V[x]. -/
theorem subResult : Obligations.SubResult := fun m x y s =>
  ⟨decodeEncode m (.sub x y) rfl, _, rfl, resultFlag_sub s x (s.reg x) (s.reg y)⟩

/-- Settles O37: the halved byte and its lowest bit. -/
theorem shiftRightResult : Obligations.ShiftRightResult := fun m x y s =>
  ⟨decodeEncode m (.shr x y) rfl, _, rfl, resultFlag_writeRF s x (toNat_byte_shiftRight_one _) (shrFlag_eq _)⟩

/-- Settles O38: a difference and its borrow flag for the register that SUBN_DEST names. -/
theorem subnResult : Obligations.SubnResult := by
  refine fun m x y s => ⟨decodeEncode m (.subn x y) rfl, _, rfl, fun hdest => ?_, fun hdest => ?_⟩
  · rw [hdest]; exact resultFlag_sub s y (s.reg y) (s.reg x)
  · rw [hdest]; exact resultFlag_sub s x (s.reg y) (s.reg x)

/-- Settles O39: the doubled byte and its highest bit, in the form that SHL_FLAG names. -/
theorem shiftLeftResult : Obligations.ShiftLeftResult := by
  refine fun m x y s => ⟨decodeEncode m (.shl x y) rfl, _, rfl, fun hmode => ?_, fun hmode => ?_⟩
  · rw [hmode]; exact resultFlag_writeRF s x (toNat_byte_shiftLeft_one _) (shlFlag_raw_eq _)
  · rw [hmode]; exact resultFlag_writeRF s x (toNat_byte_shiftLeft_one _) (shlFlag_normalized_eq _)

/-! ### Loads, the immediate sum and logic -/

/-- Settles O32: both loads write V[x] alone. -/
theorem loadResults : Obligations.LoadResults := fun m x y nn s =>
  ⟨decodeEncode m (.ldImm x nn) rfl, decodeEncode m (.ldReg x y) rfl,
    ⟨_, rfl, reg_setReg_same s x nn, frame_setReg s x nn⟩, ⟨_, rfl, reg_setReg_same s x (s.reg y), frame_setReg s x _⟩⟩

/-- Settles O33: the sum is written to V[x] alone, without a flag. -/
theorem addImmediateResult : Obligations.AddImmediateResult := by
  refine fun m x nn s => ⟨decodeEncode m (.addImm x nn) rfl, _, rfl, ?_, frame_setReg s x _⟩
  rw [reg_setReg_same, BitVec.toNat_add]

/-- Settles O34: each handler writes to V[x] alone a byte whose bits are combined one by one. -/
theorem logicResults : Obligations.LogicResults := by
  refine fun m x y s => ⟨decodeEncode m (.orReg x y) rfl, decodeEncode m (.andReg x y) rfl, decodeEncode m (.xorReg x y) rfl,
    ⟨_, rfl, fun b _ => ?_, frame_setReg s x _⟩, ⟨_, rfl, fun b _ => ?_, frame_setReg s x _⟩,
    ⟨_, rfl, fun b _ => ?_, frame_setReg s x _⟩⟩
  · rw [reg_setReg_same, BitVec.getLsbD_or]
  · rw [reg_setReg_same, BitVec.getLsbD_and]
  · rw [reg_setReg_same, BitVec.getLsbD_xor]

end Sys2Proof.Machine

/-!
PROOFS. The index register and memory (spec/43_index_memory.md). A store or a load over I to I + last completes when AddrsOk holds
of its last address and faults before any write otherwise (R193); what remains is the bytes it leaves at the mapped addresses.
-/

namespace Sys2Proof.Machine

/-! ### The index register -/

/-- Settles O41: LD I writes I alone, the address zero-extended. -/
theorem loadIndexResult : Obligations.LoadIndexResult := fun m nnn s =>
  ⟨decodeEncode m (.ldI nnn) rfl, _, rfl, toNat_zext12 nnn, frame_index s _⟩

theorem toNat_add_zext8 (w : Word) (b : Byte) : (w + zext8 b).toNat = (w.toNat + b.toNat) % 65536 := by
  rw [zext8, BitVec.toNat_add, BitVec.toNat_setWidth_of_le (by decide)]

/-- Settles O42: ADD I writes I alone, the sum modulo 65536. -/
theorem addIndexResult : Obligations.AddIndexResult := fun m x s =>
  ⟨decodeEncode m (.addI x) rfl, _, rfl, toNat_add_zext8 s.i (s.reg x), frame_index s _⟩

/-- The largest glyph address, for V[x] = 255, still fits 16 bits (R142). -/
theorem toNat_fontAddress (b : Byte) : (BitVec.ofNat 16 (fontBase + 5 * b.toNat)).toNat = 0x050 + 5 * b.toNat := by
  have hb : b.toNat < 256 := b.isLt
  rw [BitVec.toNat_ofNat, fontBase]
  omega

/-- Settles O43: LD F writes I alone, an address that does not wrap. -/
theorem fontAddressResult : Obligations.FontAddressResult := fun m x s =>
  ⟨decodeEncode m (.ldF x) rfl, _, rfl, toNat_fontAddress (s.reg x), frame_index s _⟩

/-! ### The addresses from I on -/

theorem AddrsOk.mono {s : State} {last k : Nat} (h : AddrsOk s last) (hk : k ≤ last) : AddrsOk s k :=
  h.imp_right (Nat.le_trans (Nat.add_le_add_left hk _))

theorem phys_indexAddr {s : State} {k : Nat} (h : AddrsOk s k) :
    phys s.cfg.addrPolicy (indexAddr s k) = .ok (indexAddr s k % memSize) :=
  phys_of_ok h

/-- Offsets below the memory size name different bytes, also across the wrap (R64). -/
theorem indexAddr_mod_ne (s : State) {k j : Nat} (hk : k < memSize) (hj : j < memSize) (h : k ≠ j) :
    indexAddr s k % memSize ≠ indexAddr s j % memSize := by
  unfold indexAddr memSize at *
  omega

/-! ### Stores -/

section
variable {s : State} {last : Nat} {ws : List (Nat × Byte)}

/-- A store whose addresses lie in I to I + last completes where they may be accessed (R55). -/
theorem conclude_store_of_addrsOk (h : AddrsOk s last) (hws : ∀ w ∈ ws, ∃ k, k ≤ last ∧ w.1 = indexAddr s k) :
    conclude s ((storeBytes s.cfg.addrPolicy s.mem ws).map fun m => { s with mem := m }) =
      .next { s with mem := s.mem.writeAll (ws.map fun w => (w.1 % memSize, w.2)) } := by
  have hmaps : ∀ w ∈ ws, s.cfg.addrPolicy = .wrap ∨ w.1 ≤ 0xFFF := by
    intro w hw
    obtain ⟨k, hk, e⟩ := hws w hw
    rw [e]
    exact h.mono hk
  rw [storeBytes_of_ok hmaps]
  rfl

/-- A store that names I + last faults where that address may not be accessed (R193). -/
theorem conclude_store_of_not_addrsOk {b : Byte} (h : ¬ AddrsOk s last) (hlast : (indexAddr s last, b) ∈ ws) :
    conclude s ((storeBytes s.cfg.addrPolicy s.mem ws).map fun m => { s with mem := m }) =
      .next (raise .addressOutOfRange s) := by
  cases hm : storeBytes s.cfg.addrPolicy s.mem ws with
  | error k =>
    obtain ⟨rfl, -, -⟩ := storeBytes_error hm
    rfl
  | ok m => exact absurd ((storeBytes_ok hm).2 _ hlast) h

end

/-! ### LD B -/

@[simp] theorem toNat_bcdHundreds (v : Byte) : (bcdHundreds v).toNat = v.toNat / 100 := by
  have hv : v.toNat < 256 := v.isLt
  rw [bcdHundreds, BitVec.toNat_ofNat]
  omega

@[simp] theorem toNat_bcdTens (v : Byte) : (bcdTens v).toNat = v.toNat / 10 % 10 := by
  rw [bcdTens, BitVec.toNat_ofNat]
  omega

@[simp] theorem toNat_bcdOnes (v : Byte) : (bcdOnes v).toNat = v.toNat % 10 := by
  rw [bcdOnes, BitVec.toNat_ofNat]
  omega

/-- The digit that ends at I + 2: under Defect the hundreds digit, which overwrites the ones digit (R143, D11). -/
def bcdLast (mode : BcdMode) (v : Byte) : Byte := if mode = .defect then bcdHundreds v else bcdOnes v

theorem toNat_bcdLast (mode : BcdMode) (v : Byte) :
    (bcdLast mode v).toNat = if mode = .defect then v.toNat / 100 else v.toNat % 10 := by
  rw [bcdLast, apply_ite BitVec.toNat, toNat_bcdHundreds, toNat_bcdOnes]

/-- The memory after the writes of LD B at their mapped addresses (R55, R143). -/
def memAfterBcd (s : State) (v : Byte) : Memory :=
  s.mem.writeAll ((bcdWrites s.cfg.bcdMode s v).map fun w => (w.1 % memSize, w.2))

theorem bcdWrites_addr (mode : BcdMode) (s : State) (v : Byte) :
    ∀ w ∈ bcdWrites mode s v, ∃ k, k ≤ 2 ∧ w.1 = indexAddr s k := by
  cases mode <;> simp only [bcdWrites, List.forall_mem_cons]
  · exact ⟨⟨2, by decide, rfl⟩, ⟨1, by decide, rfl⟩, ⟨2, by decide, rfl⟩, nofun⟩
  · exact ⟨⟨0, by decide, rfl⟩, ⟨1, by decide, rfl⟩, ⟨2, by decide, rfl⟩, nofun⟩

theorem bcdWrites_last (mode : BcdMode) (s : State) (v : Byte) : ∃ b, (indexAddr s 2, b) ∈ bcdWrites mode s v := by
  cases mode
  · exact ⟨bcdOnes v, List.mem_cons_self⟩
  · exact ⟨bcdOnes v, by simp [bcdWrites]⟩

/-- What LD B leaves in each byte: the last write to it, which under Defect is never one at I (R143). -/
theorem read_memAfterBcd (s : State) (v : Byte) (a : Nat) :
    (memAfterBcd s v).read a =
      if a = indexAddr s 2 % memSize then bcdLast s.cfg.bcdMode v
      else if a = indexAddr s 1 % memSize then bcdTens v
      else if a = indexAddr s 0 % memSize ∧ s.cfg.bcdMode = .fixed then bcdHundreds v
      else s.mem.read a := by
  rw [memAfterBcd]
  cases s.cfg.bcdMode with
  | defect =>
    by_cases h2 : a = indexAddr s 2 % memSize <;> simp [bcdWrites, bcdLast, Memory.writeAll, Memory.read_write, h2]
  | fixed => simp [bcdWrites, bcdLast, Memory.writeAll, Memory.read_write]

section
variable (s : State) (v : Byte)

theorem read_memAfterBcd_two : (memAfterBcd s v).read (indexAddr s 2 % memSize) = bcdLast s.cfg.bcdMode v := by
  rw [read_memAfterBcd, if_pos rfl]

theorem read_memAfterBcd_one : (memAfterBcd s v).read (indexAddr s 1 % memSize) = bcdTens v := by
  rw [read_memAfterBcd, if_neg (indexAddr_mod_ne s (by decide) (by decide) (by decide)), if_pos rfl]

theorem read_memAfterBcd_zero : (memAfterBcd s v).read (indexAddr s 0 % memSize) =
    if s.cfg.bcdMode = .fixed then bcdHundreds v else s.mem.read (indexAddr s 0 % memSize) := by
  rw [read_memAfterBcd, if_neg (indexAddr_mod_ne s (by decide) (by decide) (by decide)),
    if_neg (indexAddr_mod_ne s (by decide) (by decide) (by decide))]
  simp only [true_and]

theorem read_memAfterBcd_other {a : Nat} (h : ∀ k, k ≤ 2 → indexAddr s k % memSize ≠ a) :
    (memAfterBcd s v).read a = s.mem.read a := by
  rw [read_memAfterBcd, if_neg (h 2 (by decide)).symm, if_neg (h 1 (by decide)).symm,
    if_neg fun e => h 0 (by decide) e.1.symm]

end

/-- Settles O44, from the byte LD B leaves at each of its addresses and elsewhere. -/
theorem bcdResult : Obligations.BcdResult := by
  refine fun m x s => ⟨decodeEncode m (.ldB x) rfl, fun hok => ?_, fun hbad => ?_⟩
  · refine ⟨{ s with mem := memAfterBcd s (s.reg x) }, conclude_store_of_addrsOk hok (bcdWrites_addr _ s _),
      fun a ha => ?_, fun a ha => ?_, fun a ha => ?_, fun a ha => ?_, frame_mem s _⟩
    · rw [(phys_ok ha).1, read_memAfterBcd_one, toNat_bcdTens]
    · rw [(phys_ok ha).1, read_memAfterBcd_two, toNat_bcdLast]
    · rw [(phys_ok ha).1, read_memAfterBcd_zero]
      exact ⟨fun hmode => by rw [if_pos hmode, toNat_bcdHundreds], fun hmode => by rw [if_neg (by simp [hmode])]⟩
    · exact read_memAfterBcd_other s _ fun k hk e => ha k hk (e ▸ phys_indexAddr (hok.mono hk))
  · obtain ⟨b, hb⟩ := bcdWrites_last s.cfg.bcdMode s (s.reg x)
    exact ⟨_, conclude_store_of_not_addrsOk hbad hb, raise_raisesOnly _ s⟩

/-! ### LD [I], Vx -/

theorem regWrites_addr (s : State) (x : Ix16) : ∀ w ∈ regWrites s x, ∃ k, k ≤ x.val ∧ w.1 = indexAddr s k := by
  intro w hw
  obtain ⟨k, hk, rfl⟩ := List.mem_map.1 hw
  exact ⟨k.val, (mem_ixUpTo x k).1 hk, rfl⟩

theorem read_memAfterRegWrites_other {s : State} {x : Ix16} {a : Nat}
    (h : ∀ k : Ix16, k ≤ x → indexAddr s k.val % memSize ≠ a) : (memAfterRegWrites s x).read a = s.mem.read a := by
  refine Memory.read_writeAll_other _ _ _ fun w hw => ?_
  rw [regWrites, List.map_map] at hw
  obtain ⟨k, hk, rfl⟩ := List.mem_map.1 hw
  exact h k ((mem_ixUpTo x k).1 hk)

/-- Settles O45, from the registers read back at their addresses and the bytes no store names. -/
theorem storeRegistersResult : Obligations.StoreRegistersResult := by
  refine fun m x s => ⟨decodeEncode m (.ldMemVx x) rfl, fun hok => ?_, fun hbad => ?_⟩
  · have hphys (k : Ix16) (hk : k ≤ x) := phys_indexAddr (hok.mono hk)
    exact ⟨{ s with mem := memAfterRegWrites s x }, conclude_store_of_addrsOk hok (regWrites_addr s x),
      fun k hk => ⟨_, hphys k hk, read_memAfterRegWrites s hk⟩,
      fun a ha => read_memAfterRegWrites_other fun k hk e => ha k hk (e ▸ hphys k hk), frame_mem s _⟩
  · exact ⟨_, conclude_store_of_not_addrsOk hbad (mem_regWrites le_rfl), raise_raisesOnly _ s⟩

/-! ### LD Vx, [I] -/

/-- The bytes at the mapped addresses I to I + x (R55, R145). -/
def indexBytes (s : State) (x : Ix16) : List Byte :=
  (indexAddrs s (x.val + 1)).map fun a => s.mem.read (a % memSize)

theorem execLdVxMem_of_addrsOk {x : Ix16} {s : State} (h : AddrsOk s x.val) :
    execLdVxMem x s = .next { s with v := putRegs s.v (regLoads x (indexBytes s x)) } := by
  have hmaps : ∀ a ∈ indexAddrs s (x.val + 1), s.cfg.addrPolicy = .wrap ∨ a ≤ 0xFFF := by
    intro a ha
    obtain ⟨k, hk, rfl⟩ := mem_consecutive.1 ha
    exact h.mono (Nat.le_of_lt_succ hk)
  rw [execLdVxMem, loadBytes_of_ok hmaps]
  rfl

theorem execLdVxMem_of_not_addrsOk {x : Ix16} {s : State} (h : ¬ AddrsOk s x.val) :
    execLdVxMem x s = .next (raise .addressOutOfRange s) := by
  rw [execLdVxMem]
  cases hl : loadBytes s.cfg.addrPolicy s.mem (indexAddrs s (x.val + 1)) with
  | error k =>
    obtain ⟨rfl, -, -⟩ := loadBytes_error hl
    rfl
  | ok bytes => exact absurd ((loadBytes_ok hl).2 _ (mem_consecutive.2 ⟨x.val, Nat.lt_succ_self _, rfl⟩)) h

/-- Each register up to V[x] holds the byte at its address (R145). -/
theorem getElem_putRegs_regLoads (s : State) {x k : Ix16} (h : k ≤ x) :
    (putRegs s.v (regLoads x (indexBytes s x)))[k] = s.mem.read (indexAddr s k.val % memSize) := by
  rw [indexBytes, indexAddrs, regLoads_eq]
  refine getElem_putRegs_mem _ _ _ _ ?_ (List.mem_map_of_mem (f := fun k : Ix16 => (k, _)) ((mem_ixUpTo x k).2 h))
  simpa [Function.comp_def] using nodup_ixUpTo x

/-- Settles O46, from the byte each register up to V[x] gets; the others are in the frame. -/
theorem loadRegistersResult : Obligations.LoadRegistersResult := by
  refine fun m x s => ⟨decodeEncode m (.ldVxMem x) rfl, fun hok => ?_, fun hbad => ?_⟩
  · exact ⟨_, execLdVxMem_of_addrsOk hok,
      fun k hk => ⟨_, phys_indexAddr (hok.mono hk), getElem_putRegs_regLoads s hk⟩, frame_regLoads s x _⟩
  · exact ⟨_, execLdVxMem_of_not_addrsOk hbad, raise_raisesOnly _ s⟩

end Sys2Proof.Machine

/-!
PROOFS. The display instructions (spec/44_display.md). The sprite DRW reads is the bytes from I on, the cells of its lit bits are
those that Lit, Covers and OffEdge speak of, and DRW answers one of three states according to SpriteOk and OffEdge.
-/

namespace Sys2Proof.Machine

/-! ### CLS -/

/-- The words 0nn0 lead the Keyed decoder to CLS whatever the two middle nibbles are (R74). -/
theorem decode_cls_keyed (x y : Nibble) : decode .keyed (fmtXYN 0x0#4 x y 0x0#4) = .cls := by
  simp [decode, decodeFamily0]

/-- Settles O48: CLS writes the display alone, every row zero. -/
theorem clearResult : Obligations.ClearResult :=
  ⟨fun m => decodeEncode m .cls rfl, fun _ => decode_cls_keyed _ _,
    fun s => ⟨_, rfl, pixel_replicate_zero, frame_disp s _⟩⟩

/-! ### The sprite and its cells -/

/-- The bytes of DRW's sprite: at I + r, mapped, for r = 0 to n - 1 (R161). -/
def spriteBytes (s : State) (n : Ix16) : List Byte := (indexAddrs s n.val).map fun a => s.mem.read (a % memSize)

/-- The cells of the lit bits of DRW's sprite, unwrapped (R161). -/
def drwCells (s : State) (x y n : Ix16) : List (Nat × Nat) := spriteCells s x y (spriteBytes s n)

section
variable {s : State} {x y n : Ix16}

/-- The last of the addresses decides for all of them. -/
theorem spriteOk_iff : SpriteOk s n ↔ ∀ a ∈ indexAddrs s n.val, s.cfg.addrPolicy = .wrap ∨ a ≤ 0xFFF := by
  constructor
  · intro h a ha
    obtain ⟨k, hk, rfl⟩ := mem_consecutive.1 ha
    obtain rfl | h := h
    · exact absurd hk (Nat.not_lt_zero k)
    · exact h.mono (Nat.le_sub_one_of_lt hk)
  · intro h
    by_cases hn : n = 0
    · exact .inl hn
    · have hpos : n.val - 1 < n.val := Nat.sub_one_lt fun e => hn (Fin.ext e)
      exact .inr (h _ (mem_consecutive.2 ⟨n.val - 1, hpos, rfl⟩))

theorem spriteRows_of_spriteOk (h : SpriteOk s n) : spriteRows s n = .ok (spriteBytes s n) :=
  loadBytes_of_ok (spriteOk_iff.1 h)

theorem spriteRows_of_not_spriteOk (h : ¬ SpriteOk s n) : spriteRows s n = .error .addressOutOfRange := by
  cases hr : spriteRows s n with
  | error k =>
    obtain ⟨rfl, -, -⟩ := loadBytes_error hr
    rfl
  | ok rows => exact absurd (spriteOk_iff.2 (loadBytes_ok hr).2) h

theorem getElem?_spriteBytes {r : Nat} {b : Byte} :
    (spriteBytes s n)[r]? = some b ↔ r < n.val ∧ s.mem.read ((s.i.toNat + r) % memSize) = b := by
  by_cases h : r < n.val <;> simp [spriteBytes, indexAddrs, consecutive, h]

theorem mem_drwCells {cell : Nat × Nat} :
    cell ∈ drwCells s x y n ↔ ∃ r c, Lit s n r c ∧ (litColumn s x c, litRow s y r) = cell := by
  rw [drwCells, spriteCells, mem_litCells]
  constructor
  · rintro ⟨r, c, b, hr, hc, hb, rfl⟩
    obtain ⟨hn, rfl⟩ := getElem?_spriteBytes.1 hr
    exact ⟨r, c, ⟨hn, hc, hb⟩, rfl⟩
  · rintro ⟨r, c, ⟨hn, hc, hb⟩, rfl⟩
    exact ⟨r, c, _, getElem?_spriteBytes.2 ⟨hn, rfl⟩, hc, hb, rfl⟩

/-- To speak of some cell of the sprite is to speak of some lit bit (R161). -/
theorem exists_mem_drwCells (p : Nat × Nat → Prop) :
    (∃ cell, cell ∈ drwCells s x y n ∧ p cell) ↔ ∃ r c, Lit s n r c ∧ p (litColumn s x c, litRow s y r) := by
  simp only [mem_drwCells]
  constructor
  · rintro ⟨_, ⟨r, c, hlit, rfl⟩, hp⟩
    exact ⟨r, c, hlit, hp⟩
  · rintro ⟨r, c, hlit, hp⟩
    exact ⟨_, ⟨r, c, hlit, rfl⟩, hp⟩

theorem covers_iff {l : Nat} : Covers s x y n l ↔ l ∈ (drwCells s x y n).map fun c => cellIndex c.1 c.2 :=
  (exists_mem_drwCells fun c => cellIndex c.1 c.2 = l).symm.trans List.mem_map.symm

theorem cellFits_linear_eq_false (col row : Nat) : cellFits .linear (col, row) = false ↔ row * 64 + col ≥ 2048 := by
  rw [cellFits, decide_eq_false_iff_not, not_lt]
  rfl

theorem cellFits_fault_eq_false (col row : Nat) : cellFits .fault (col, row) = false ↔ col ≥ 64 ∨ row ≥ 32 := by
  rw [cellFits, Bool.and_eq_false_iff, decide_eq_false_iff_not, decide_eq_false_iff_not, not_lt, not_lt]
  rfl

theorem offEdge_iff : OffEdge s x y n ↔ ∃ c ∈ drwCells s x y n, cellFits s.cfg.drawEdge c = false := by
  rw [exists_mem_drwCells]
  refine exists_congr fun r => exists_congr fun c => and_congr_right fun _ => ?_
  cases s.cfg.drawEdge
  · exact (cellFits_linear_eq_false _ _).symm
  · exact (cellFits_fault_eq_false _ _).symm

/-! ### The three answers of DRW -/

theorem execDrw_of_not_spriteOk (h : ¬ SpriteOk s n) : execDrw x y n s = .next (raise .addressOutOfRange s) := by
  rw [execDrw, spriteRows_of_not_spriteOk h, conclude_error]

theorem execDrw_of_offEdge (h : SpriteOk s n) (ho : OffEdge s x y n) :
    execDrw x y n s = .next (raise .drawOutOfBounds s) := by
  have hall : ¬ (drwCells s x y n).all (cellFits s.cfg.drawEdge) = true := by
    simpa using offEdge_iff.1 ho
  rw [execDrw, spriteRows_of_spriteOk h]
  exact congrArg (conclude s) (if_neg hall)

theorem execDrw_of_fits (h : SpriteOk s n) (ho : ¬ OffEdge s x y n) :
    execDrw x y n s = .next (drawCells s (drwCells s x y n)) := by
  have hall : (drwCells s x y n).all (cellFits s.cfg.drawEdge) = true := by
    simpa [offEdge_iff] using ho
  rw [execDrw, spriteRows_of_spriteOk h]
  exact congrArg (conclude s) (if_pos hall)

/-- A DRW that leaves no fault has drawn its cells. -/
theorem execDrw_completes {t : State} (h : execDrw x y n s = .next t) (ht : t.fault = none) :
    SpriteOk s n ∧ ¬ OffEdge s x y n ∧ t = drawCells s (drwCells s x y n) := by
  by_cases hok : SpriteOk s n
  · by_cases ho : OffEdge s x y n
    · cases (execDrw_of_offEdge hok ho).symm.trans h
      cases ht
    · exact ⟨hok, ho, (Host.Outcome.next.inj ((execDrw_of_fits hok ho).symm.trans h)).symm⟩
  · cases (execDrw_of_not_spriteOk hok).symm.trans h
    cases ht

/-! ### What a completed DRW leaves -/

section
variable (ho : ¬ OffEdge s x y n)
include ho

theorem cellIndex_lt_of_fits : ∀ c ∈ drwCells s x y n, cellIndex c.1 c.2 < dispCells := fun c hc =>
  cellFits_bound (by simpa using fun hoff => ho (offEdge_iff.2 ⟨c, hc, hoff⟩))

theorem pixel_drawn (l : Nat) : pixel (drawCells s (drwCells s x y n)).disp l =
    (pixel s.disp l ^^ decide (l ∈ (drwCells s x y n).map fun c => cellIndex c.1 c.2)) :=
  (drawCells_spec s x y _ (cellIndex_lt_of_fits ho)).1 l

theorem pixel_drawn_of_covers {l : Nat} (h : Covers s x y n l) :
    pixel (drawCells s (drwCells s x y n)).disp l = !pixel s.disp l := by
  rw [pixel_drawn ho, decide_eq_true (covers_iff.1 h), Bool.xor_true]

theorem pixel_drawn_of_not_covers {l : Nat} (h : ¬ Covers s x y n l) :
    pixel (drawCells s (drwCells s x y n)).disp l = pixel s.disp l := by
  rw [pixel_drawn ho, decide_eq_false (mt covers_iff.2 h), Bool.xor_false]

/-- VF is the collision: whether a lit bit landed on a pixel that was on (R161). -/
theorem reg_vf_drawn : ∃ hit : Bool, (drawCells s (drwCells s x y n)).reg vf = flagByte hit ∧
    (hit = true ↔ ∃ l, Covers s x y n l ∧ pixel s.disp l = true) := by
  refine ⟨_, (drawCells_spec s x y _ (cellIndex_lt_of_fits ho)).2, ?_⟩
  simp only [covers_iff]
  exact List.any_eq_true

theorem reg_vf_drawn_eq_one_iff :
    (drawCells s (drwCells s x y n)).reg vf = 1 ↔ ∃ l, Covers s x y n l ∧ pixel s.disp l = true := by
  obtain ⟨hit, hvf, hhit⟩ := reg_vf_drawn ho
  rw [hvf, ← hhit]
  cases hit <;> decide

theorem reg_vf_drawn_eq_zero_iff :
    (drawCells s (drwCells s x y n)).reg vf = 0 ↔ ¬ ∃ l, Covers s x y n l ∧ pixel s.disp l = true := by
  obtain ⟨hit, hvf, hhit⟩ := reg_vf_drawn ho
  rw [hvf, ← hhit]
  cases hit <;> decide

end

end

/-- Settles O49, from the answer of DRW in each case and what the drawn state leaves. -/
theorem drawResult : Obligations.DrawResult := by
  refine fun m x y n s => ⟨decodeEncode m (.drw x y n) rfl, fun hok ho => ?_, fun hbad => ?_, fun hok ho => ?_⟩
  · exact ⟨_, execDrw_of_fits hok ho, fun _ => pixel_drawn_of_covers ho, fun _ => pixel_drawn_of_not_covers ho,
      (reg_vf_drawn_eq_one_iff ho).2, (reg_vf_drawn_eq_zero_iff ho).2, frame_drawCells s _⟩
  · exact ⟨_, execDrw_of_not_spriteOk hbad, raise_raisesOnly _ s⟩
  · exact ⟨_, execDrw_of_offEdge hok ho, raise_raisesOnly _ s⟩

/-! ### Drawing twice -/

section
variable {s u : State} {x y n : Ix16} (hmem : u.mem = s.mem) (hi : u.i = s.i)
include hmem hi

theorem spriteBytes_congr : spriteBytes u n = spriteBytes s n := by
  rw [spriteBytes, spriteBytes, indexAddrs, indexAddrs, hmem, hi]

/-- The cells depend on memory, I, V[x] and V[y] alone (R161). -/
theorem drwCells_congr (hx : u.reg x = s.reg x) (hy : u.reg y = s.reg y) : drwCells u x y n = drwCells s x y n := by
  rw [drwCells, drwCells, spriteCells, spriteCells, spriteBytes_congr hmem hi, hx, hy]

end

/-- Over the display that a DRW left, a DRW of the same cells restores the display: each covered pixel is flipped twice, any
other never (R162). -/
theorem disp_drawn_twice {s u : State} {x y n : Ix16} (hs : ¬ OffEdge s x y n) (hu : ¬ OffEdge u x y n)
    (hcov : ∀ l, Covers u x y n l ↔ Covers s x y n l) (hdisp : u.disp = (drawCells s (drwCells s x y n)).disp) :
    (drawCells u (drwCells u x y n)).disp = s.disp := by
  refine display_ext fun l _ => ?_
  by_cases h : Covers s x y n l
  · rw [pixel_drawn_of_covers hu ((hcov l).2 h), hdisp, pixel_drawn_of_covers hs h, Bool.not_not]
  · rw [pixel_drawn_of_not_covers hu (mt (hcov l).1 h), hdisp, pixel_drawn_of_not_covers hs h]

/-- Settles O50: the second DRW has the cells of the first, and a pixel it finds on there is one that was off before. -/
theorem drawTwiceRestores : Obligations.DrawTwiceRestores := by
  intro x y n s t u h ht hdisp hmem hi hcfg hx hy
  obtain ⟨hok, hs, rfl⟩ := execDrw_completes h ht
  have hcells : drwCells u x y n = drwCells s x y n := drwCells_congr hmem hi hx hy
  have hcov (l : Nat) : Covers u x y n l ↔ Covers s x y n l := by rw [covers_iff, covers_iff, hcells]
  have hu : ¬ OffEdge u x y n := by rwa [offEdge_iff, hcells, hcfg, ← offEdge_iff]
  have hoku : SpriteOk u n := by rwa [SpriteOk, AddrsOk, hcfg, hi]
  refine ⟨_, execDrw_of_fits hoku hu, disp_drawn_twice hs hu hcov hdisp, rfl, (reg_vf_drawn_eq_one_iff hu).trans ?_⟩
  refine exists_congr fun l => (and_congr_left' (hcov l)).trans (and_congr_right fun hl => ?_)
  rw [hdisp, pixel_drawn_of_covers hs hl, Bool.not_eq_true']

end Sys2Proof.Machine

/-!
PROOFS. Keys and timers (spec/45_keys_timers.md): the skips on a key level, the wait for a key, and what a whole Cycle of LD Vx, K
and of the timer instructions leaves once the timer step has run (R93 to R95).
-/

namespace Sys2Proof.Machine

/-- The Cycle of an instruction that completes, whatever word it is fetched as, is its meaning and then the timer step (R93). -/
theorem step_of_runs {i : Instr} {s : State} {u : Word → State} (hrun : Runs i s)
    (hu : ∀ w, exec i (beginExecute w s) = .next (u w)) (hq : ∀ w, (u w).fault = s.fault) :
    ∃ w, step s = .next (tickTimers (u w)) := by
  obtain ⟨hf, w, hw, rfl⟩ := hrun
  exact ⟨w, by simpa [hq, hf] using step_of_exec hf hw (hu w)⟩

/-! ### LD Vx, K -/

/-- A pressed key with no lower one pressed is the least pressed key (R172). -/
theorem leastKey_eq_some {key : Vector Bool 16} {k : Ix16} (hk : key[k] = true) (hlow : ∀ j : Ix16, j < k → key[j] = false) :
    leastKey key = some k := by
  cases h : leastKey key with
  | none => exact absurd hk (Bool.eq_false_iff.1 (leastKey_none h k))
  | some j =>
    obtain ⟨hj, hjlow⟩ := leastKey_some h
    have hjk : ¬ j < k := fun hlt => Bool.eq_false_iff.1 (hlow j hlt) hj
    have hkj : ¬ k < j := fun hlt => Bool.eq_false_iff.1 (hjlow k hlt) hk
    rw [le_antisymm (not_lt.1 hkj) (not_lt.1 hjk)]

theorem leastKey_eq_none {key : Vector Bool 16} (h : ∀ k : Ix16, key[k] = false) : leastKey key = none :=
  List.find?_eq_none.2 fun k _ => Bool.eq_false_iff.1 (h k)

theorem execLdVxK_of_pressed {s : State} (x : Ix16) {k : Ix16} (hk : s.key[k] = true)
    (hlow : ∀ j : Ix16, j < k → s.key[j] = false) : execLdVxK x s = .next (s.setReg x (BitVec.ofNat 8 k.val)) := by
  rw [execLdVxK, leastKey_eq_some hk hlow]

theorem execLdVxK_of_no_key {s : State} (x : Ix16) (h : ∀ k : Ix16, s.key[k] = false) :
    execLdVxK x s = .next { s with pc := s.pc - 2 } := by
  rw [execLdVxK, leastKey_eq_none h]

/-- A key's index fits a register. -/
theorem toNat_keyByte (k : Ix16) : (BitVec.ofNat 8 k.val).toNat = k.val :=
  Nat.mod_eq_of_lt (k.isLt.trans (by decide))

/-- A Cycle of LD Vx, K with no key pressed goes back to its own address and steps the timers (R172). -/
theorem step_ldVxK_of_no_key {x : Ix16} {s : State} (hrun : Runs (.ldVxK x) s) (h : ∀ k : Ix16, s.key[k] = false) :
    ∃ w, step s = .next (tickTimers { beginExecute w s with pc := s.pc + 2 - 2 }) :=
  step_of_runs hrun (fun w => execLdVxK_of_no_key (s := beginExecute w s) x h) fun _ => rfl

/-- Settles O52, by what the handler answers where a least pressed key exists and where none is pressed. -/
theorem waitKeyResult : Obligations.WaitKeyResult := by
  refine fun m x s => ⟨decodeEncode m (.ldVxK x) rfl, fun k hk hlow => ?_, fun h => ?_, fun hrun h => ?_⟩
  · exact ⟨_, execLdVxK_of_pressed x hk hlow, by rw [reg_setReg_same, toNat_keyByte], frame_setReg s x _⟩
  · exact ⟨_, execLdVxK_of_no_key x h, rfl, frame_pc s _⟩
  · obtain ⟨w, hstep⟩ := step_ldVxK_of_no_key hrun h
    obtain ⟨hdt, hst, htone, -⟩ := tickTimers_counts { beginExecute w s with pc := s.pc + 2 - 2 }
    exact ⟨_, hstep, BitVec.add_sub_cancel s.pc 2, hrun.1, hdt, hst, htone, rfl⟩

/-! ### SKP and SKNP -/

section
variable {s : State} {x : Ix16}

/-- A register value at most 15 names its key, whose level decides the skip (R170, R171). -/
theorem skipOnKey_of_key {k : Ix16} (level : Bool) (h : (s.reg x).toNat = k.val) :
    skipOnKey level x s = .ok (if s.key[k] = level then s.skip else s) := by
  rw [skipOnKey, keyIndex_ok.2 h]

/-- A register value above 15 names no key (R173). -/
theorem skipOnKey_of_no_key (level : Bool) (h : (s.reg x).toNat > 15) :
    skipOnKey level x s = .error .keyIndexOutOfRange := by
  obtain ⟨-, e⟩ | ⟨k, hk, -⟩ := skipOnKey_cases level x s
  · exact e
  · omega

theorem execSkp_of_key {k : Ix16} (h : (s.reg x).toNat = k.val) :
    execSkp x s = .next (if s.key[k] = true then s.skip else s) := by
  rw [execSkp, skipOnKey_of_key true h, conclude_ok]

theorem execSknp_of_key {k : Ix16} (h : (s.reg x).toNat = k.val) :
    execSknp x s = .next (if ¬ s.key[k] = true then s.skip else s) := by
  simp only [execSknp, skipOnKey_of_key false h, conclude_ok, Bool.not_eq_true]

theorem conclude_skipOnKey_of_no_key (level : Bool) (h : (s.reg x).toNat > 15) :
    conclude s (skipOnKey level x s) = .next (raise .keyIndexOutOfRange s) := by
  rw [skipOnKey_of_no_key level h, conclude_error]

end

/-- The words ExKE lead the Keyed decoder to SKP whatever K is (R76). -/
theorem decode_skp_keyed (x : Ix16) (k : Nibble) : decode .keyed (fmtXYN 0xE#4 (nib x) k 0xE#4) = .skp x := by
  simp [decode, decodeFamilyE]

/-- The words ExK1 lead the Keyed decoder to SKNP whatever K is (R76). -/
theorem decode_sknp_keyed (x : Ix16) (k : Nibble) : decode .keyed (fmtXYN 0xE#4 (nib x) k 0x1#4) = .sknp x := by
  simp [decode, decodeFamilyE]

/-- Settles O51: the level of the key that V[x] names decides both skips, and above 15 both fault. -/
theorem skipOnKeyResult : Obligations.SkipOnKey := by
  refine fun m x h s => ⟨decodeEncode m (.skp x) rfl, decodeEncode m (.sknp x) rfl, decode_skp_keyed x h,
    decode_sknp_keyed x h, fun k hk => ⟨?_, ?_⟩, fun hbad => ⟨?_, ?_⟩⟩
  · obtain ⟨t, ht, hres⟩ := skip_if_result s (s.key[k] = true)
    exact ⟨t, (execSkp_of_key hk).trans ht, hres⟩
  · obtain ⟨t, ht, hres⟩ := skip_if_not_result s (s.key[k] = true)
    exact ⟨t, (execSknp_of_key hk).trans ht, hres⟩
  · exact ⟨_, conclude_skipOnKey_of_no_key true hbad, raise_raisesOnly _ s⟩
  · exact ⟨_, conclude_skipOnKey_of_no_key false hbad, raise_raisesOnly _ s⟩

/-! ### The timers -/

/-- Settles O53: V[x] takes DT as the Cycle found it, and the timer step comes after. -/
theorem readDelayResult : Obligations.ReadDelayResult := by
  refine fun m x s => ⟨decodeEncode m (.ldVxDt x) rfl, ⟨_, rfl, reg_setReg_same s x s.dt, frame_setReg s x s.dt⟩,
    fun hrun => ?_⟩
  obtain ⟨w, hstep⟩ := step_of_runs hrun (fun _ => rfl) fun _ => rfl
  exact ⟨_, hstep, reg_setReg_same (beginExecute w s) x s.dt, toNat_countDown s.dt⟩

/-- Settles O54: each writes its timer alone, and the timer step counts the new value down. -/
theorem setTimersResult : Obligations.SetTimersResult := by
  refine fun m x s => ⟨decodeEncode m (.ldDtVx x) rfl, decodeEncode m (.ldStVx x) rfl, ⟨_, rfl, rfl, frame_delay s _⟩,
    ⟨_, rfl, rfl, frame_sound s _⟩, fun hrun => ?_, fun hrun => ?_⟩
  · obtain ⟨w, hstep⟩ := step_of_runs hrun (fun _ => rfl) fun _ => rfl
    exact ⟨_, hstep, toNat_countDown (s.reg x)⟩
  · obtain ⟨w, hstep⟩ := step_of_runs hrun (fun _ => rfl) fun _ => rfl
    obtain ⟨-, hst, htone, -⟩ := tickTimers_counts { beginExecute w s with st := s.reg x }
    exact ⟨_, hstep, hst, htone⟩

end Sys2Proof.Machine

/-!
PROOFS. Faults (spec/60_exceptions.md): an instruction that leaves a fault has raised it over the state it began in (R193), when an
instruction faults under the default policies (R191), and Cycles that begin with a recorded fault (R192).
-/

namespace Sys2Proof.Machine

/-! ### A fault is precise -/

section
variable {s t : State}

/-- A handler that concludes with a fault has raised it, when what it computes records none. -/
theorem conclude_raises {r : Except FaultKind State} (hok : ∀ u, r = .ok u → u.fault = none) (ht : t.fault ≠ none)
    (h : conclude s r = .next t) : ∃ k, t = raise k s := by
  obtain hr | ⟨k, -, rfl⟩ := conclude_next h
  · exact absurd (hok t hr) ht
  · exact ⟨k, rfl⟩

variable (hs : s.fault = none) (ht : t.fault ≠ none)
include hs ht

/-- A handler that loads or stores and then writes what it got with `f`, which records no fault. -/
theorem conclude_map_raises {α : Type} {e : Except FaultKind α} {f : α → State} (h : conclude s (e.map f) = .next t)
    (hf : ∀ a, (f a).fault = s.fault) : ∃ k, t = raise k s := by
  refine conclude_raises (fun u hu => ?_) ht h
  cases e with
  | error k => cases hu
  | ok a => cases hu; exact (hf a).trans hs

theorem skipOnKey_raises {level : Bool} {x : Ix16} (h : conclude s (skipOnKey level x s) = .next t) :
    ∃ k, t = raise k s :=
  conclude_raises (fun _ hu => ((skipOnKey_frame hu).1 .fault (by simp)).trans hs) ht h

theorem execRet_raises (h : execRet s = .next t) : ∃ k, t = raise k s := by
  unfold execRet at h
  split at h
  · cases h; exact ⟨_, rfl⟩
  · split at h
    · cases h; exact absurd hs ht
    · cases h

theorem execCall_raises {nnn : Addr12} (h : execCall nnn s = .next t) : ∃ k, t = raise k s := by
  unfold execCall at h
  split at h
  · cases h; exact ⟨_, rfl⟩
  · split at h
    · cases h; exact absurd hs ht
    · cases h

theorem execDrw_raises {x y n : Ix16} (h : execDrw x y n s = .next t) : ∃ k, t = raise k s := by
  obtain ⟨k, -, e⟩ | ⟨rows, -, -, e⟩ | ⟨rows, -, -, e⟩ := execDrw_cases x y n s <;>
    obtain rfl := Host.Outcome.next.inj (e.symm.trans h)
  · exact ⟨k, rfl⟩
  · exact ⟨_, rfl⟩
  · exact absurd hs ht

theorem execNop_raises {w : Word} (h : execNop w s = .next t) : ∃ k, t = raise k s := by
  unfold execNop at h
  split at h
  · cases h; exact absurd hs ht
  · cases h; exact ⟨_, rfl⟩

/-- An instruction that leaves a fault where none was recorded leaves the state it began in with the fault raised (R193). -/
theorem exec_raises {i : Instr} (h : exec i s = .next t) : ∃ k, t = raise k s := by
  cases i with
  | ret => exact execRet_raises hs ht h
  | call _ => exact execCall_raises hs ht h
  | drw _ _ _ => exact execDrw_raises hs ht h
  | skp _ | sknp _ => exact skipOnKey_raises hs ht h
  | ldB _ | ldMemVx _ | ldVxMem _ => exact conclude_map_raises hs ht h fun _ => rfl
  | nop w => exact execNop_raises hs ht (w := w) h
  | _ => exact absurd ((onlyNamedWriters _ _ _ h .fault (by simp [partsWritten])).trans hs) ht

end

/-- The fault raised over the state an instruction executes in: IR, PC, the record and the tone are all that differ from the
start of the Cycle (R91, R193). -/
theorem frame_raise_beginExecute (k : FaultKind) (w : Word) (s : State) :
    Frame [.fault, .tone, .pc, .ir] [] s (raise k (beginExecute w s)) :=
  ⟨fun p hp => by cases p <;> simp_all [SamePart], fun _ _ => rfl⟩

/-- Settles O14: the fault is the fetch's, or the instruction raised it over the state it began in; the timer step records
none. -/
theorem preciseFaults : Obligations.PreciseFaults := by
  intro s t f hs h hf
  have ht : t.fault ≠ none := by simp [hf]
  obtain ⟨hs', -⟩ | ⟨-, k, hk, rfl⟩ | ⟨-, w, u, hw, hu, ⟨-, rfl⟩ | ⟨hq, rfl⟩⟩ := step_cases h
  · exact absurd hs hs'
  · cases hf
    exact .inl ⟨rfl, hk, rfl, rfl, frame_raiseFetch k s⟩
  · obtain ⟨k, rfl⟩ := exec_raises (s := beginExecute w s) hs ht hu
    cases hf
    exact .inr ⟨w, hw, rfl, BitVec.add_sub_cancel s.pc 2, rfl, rfl, rfl, frame_raise_beginExecute k w s⟩
  · exact absurd hq ht

/-! ### Faults under the default policies

A handler answers a next state, faulted exactly where R191 says: where its condition holds it raises, elsewhere it leaves the
fault record as it was. -/

/-- A next state is answered, and a fault is recorded in it exactly under the condition `c`. -/
def FaultsIff (o : Host.Outcome State Fault Refusal) (c : Prop) : Prop := ∃ u, o = .next u ∧ (u.fault ≠ none ↔ c)

section
variable {s : State} {o : Host.Outcome State Fault Refusal} {c : Prop}

theorem faultsIff_of_raise {k : FaultKind} (h : o = .next (raise k s)) (hc : c) : FaultsIff o c :=
  ⟨_, h, iff_of_true nofun hc⟩

variable (hs : s.fault = none)
include hs

theorem faultsIff_of_completes {u : State} (h : o = .next u) (hu : u.fault = s.fault) (hc : ¬ c) : FaultsIff o c :=
  ⟨u, h, iff_of_false (not_not.2 (hu.trans hs)) hc⟩

/-- RET faults only on an empty stack, SP in Inv's range (R101). -/
theorem execRet_faultsIff (hsp : s.sp.toNat ≤ 16) : FaultsIff (execRet s) (s.sp = 0) := by
  by_cases h : s.sp = 0
  · exact faultsIff_of_raise (execRet_empty h) h
  · have hk : s.sp.toNat - 1 < 16 := by omega
    have hpos : s.sp.toNat = (⟨s.sp.toNat - 1, hk⟩ : Ix16).val + 1 := by bv_omega
    exact faultsIff_of_completes hs (execRet_pop hpos) rfl h

/-- CALL faults only on a full stack, SP in Inv's range (R103). -/
theorem execCall_faultsIff (hsp : s.sp.toNat ≤ 16) (nnn : Addr12) : FaultsIff (execCall nnn s) (s.sp = 16) := by
  by_cases h : s.sp = 16
  · exact faultsIff_of_raise (execCall_full nnn h) h
  · have hk : s.sp.toNat < 16 := by bv_omega
    exact faultsIff_of_completes hs (execCall_push (k := ⟨_, hk⟩) nnn rfl) rfl h

/-- A skip on a key faults only where V[x] names no key (R173). -/
theorem skipOnKey_faultsIff (level : Bool) (x : Ix16) :
    FaultsIff (conclude s (skipOnKey level x s)) ((s.reg x).toNat > 15) := by
  obtain ⟨hbad, e⟩ | ⟨k, hk, e⟩ := skipOnKey_cases level x s <;> rw [e]
  · exact faultsIff_of_raise rfl hbad
  · exact faultsIff_of_completes hs rfl ((frame_skip_if s _).1 .fault (by simp)) (by omega)

/-- Under Wrap every sprite is read, so that DRW faults only by an edge (R161). -/
theorem execDrw_faultsIff (ha : s.cfg.addrPolicy = .wrap) (x y n : Ix16) :
    FaultsIff (execDrw x y n s) (OffEdge s x y n) := by
  have hok : SpriteOk s n := .inr (.inl ha)
  by_cases h : OffEdge s x y n
  · exact faultsIff_of_raise (execDrw_of_offEdge hok h) h
  · exact faultsIff_of_completes hs (execDrw_of_fits hok h) rfl h

omit hs in
/-- Under Linear the edge is the end of the buffer (R161, R191). -/
theorem offEdge_of_linear (he : s.cfg.drawEdge = .linear) (x y n : Ix16) :
    OffEdge s x y n = DefaultFault (.drw x y n) s := by
  rw [OffEdge, he, DefaultFault]

/-- Under the default policies an instruction faults exactly under the conditions of R191. -/
theorem exec_faultsIff (hsp : s.sp.toNat ≤ 16) (ha : s.cfg.addrPolicy = .wrap) (hu : s.cfg.unmappedPolicy = .noOp)
    (he : s.cfg.drawEdge = .linear) (i : Instr) : FaultsIff (exec i s) (DefaultFault i s) := by
  cases i with
  | ret => exact execRet_faultsIff hs hsp
  | call nnn => exact execCall_faultsIff hs hsp nnn
  | skp x => exact skipOnKey_faultsIff hs true x
  | sknp x => exact skipOnKey_faultsIff hs false x
  | drw x y n => exact offEdge_of_linear he x y n ▸ execDrw_faultsIff hs ha x y n
  | seImm _ _ | sneImm _ _ | seReg _ _ | sneReg _ _ =>
    exact faultsIff_of_completes hs rfl ((frame_skip_if s _).1 .fault (by simp)) not_false
  | ldB x => exact faultsIff_of_completes hs (conclude_store_of_addrsOk (.inl ha) (bcdWrites_addr _ s _)) rfl not_false
  | ldMemVx x => exact faultsIff_of_completes hs (conclude_store_of_addrsOk (.inl ha) (regWrites_addr s x)) rfl not_false
  | ldVxMem x => exact faultsIff_of_completes hs (execLdVxMem_of_addrsOk (.inl ha)) rfl not_false
  | nop w => exact faultsIff_of_completes hs (execNop_noOp w hu) rfl not_false
  | ldVxK x => exact faultsIff_of_completes hs rfl ((execLdVxK_frame (x := x) rfl).1 .fault (by simp)) not_false
  | _ => exact faultsIff_of_completes hs rfl rfl not_false

end

/-- The conditions of R191 do not read what the driver writes before the instruction. -/
theorem defaultFault_beginExecute (i : Instr) (w : Word) (s : State) :
    DefaultFault i (beginExecute w s) ↔ DefaultFault i s := Iff.rfl

/-- The timer step keeps the fault record, so a Cycle faults as its instruction does. -/
theorem step_faultsIff {s : State} {w : Word} {c : Prop} (hs : s.fault = none) (hw : fetch s = .ok w)
    (h : FaultsIff (exec (decode s.cfg.decodeMode w) (beginExecute w s)) c) : FaultsIff (step s) c := by
  obtain ⟨u, hu, hc⟩ := h
  refine ⟨_, step_of_exec hs hw hu, ?_⟩
  split <;> exact hc

/-- Settles O15: under Wrap the fetch succeeds, and the Cycle faults as the decoded instruction does. -/
theorem defaultFaults : Obligations.DefaultFaults := by
  intro s hs hsp ha hu he
  obtain ⟨w, hw⟩ : ∃ w, fetch s = .ok w := ⟨_, fetch_of_ok (.inl ha)⟩
  obtain ⟨t, ht, hiff⟩ := step_faultsIff hs hw (exec_faultsIff (s := beginExecute w s) hs hsp ha hu he _)
  exact ⟨w, t, hw, ht, hiff.trans (defaultFault_beginExecute _ w s)⟩

/-! ### A recorded fault is terminal -/

theorem frame_haltedCycle (s : State) : Frame [.tone] [] s (haltedCycle s) :=
  ⟨fun p hp => by cases p <;> simp_all [SamePart], fun _ _ => rfl⟩

theorem frame_tone_key (s : State) (tone : Bool) (key : Vector Bool 16) :
    Frame [.tone, .keypad] [] s { s with tone := tone, key := key } :=
  ⟨fun p hp => by cases p <;> simp_all [SamePart], fun _ _ => rfl⟩

/-- A run from a recorded fault changes the tone and the host's keypad alone (R192, R206). -/
theorem runCycles_of_fault (keys : List (Vector Bool 16)) {s : State} (h : s.fault ≠ none) :
    ∃ tone key, runCycles keys s = .next { s with tone := tone, key := key } := by
  induction keys generalizing s with
  | nil => exact ⟨s.tone, s.key, rfl⟩
  | cons key rest ih =>
    have hstep : cycleWith key s = .next (haltedCycle (s.setKeypad key)) := step_of_fault h
    rw [runCycles, hstep]
    exact ih (s := haltedCycle (s.setKeypad key)) h

/-- Settles O10: each Cycle is the halted one, and a run is one by induction on its keypads. -/
theorem haltedCycleChangesNothing : Obligations.HaltedCycleChangesNothing := by
  refine fun s h => ⟨⟨_, step_of_fault h, rfl, frame_haltedCycle s⟩, fun keys => ?_⟩
  obtain ⟨tone, key, hrun⟩ := runCycles_of_fault keys h
  exact ⟨_, hrun, rfl, frame_tone_key s tone key⟩

end Sys2Proof.Machine

/-!
PROOFS. The ROM load of the host and the launch state (R222, R224).
-/

namespace Sys2Proof.Machine

/-! ### LoadROM -/

/-- A ROM that fits is laid out from 0x200 on (R222). -/
theorem loadRom_of_le (s : State) {rom : List Byte} (h : rom.length ≤ maxRom) :
    s.loadRom rom = some { s with mem := s.mem.writeAll (bytesFrom programBase rom) } := if_pos h

/-- A ROM that does not fit is refused (D19). -/
theorem loadRom_of_gt (s : State) {rom : List Byte} (h : maxRom < rom.length) : s.loadRom rom = none :=
  if_neg (Nat.not_le.2 h)

/-- Settles O19: a ROM that fits is bytes laid out at 0x200, whose laws give the bytes read back and those kept. -/
theorem launchState : Obligations.LaunchState := fun s _ =>
  ⟨rfl,
    fun hfits => ⟨_, loadRom_of_le s hfits, fun _ _ hk => read_bytesFrom_mem s.mem hk,
      fun _ ha => read_bytesFrom_other s.mem ha, frame_mem s _⟩,
    fun hlong => loadRom_of_gt s hlong⟩

end Sys2Proof.Machine
